-- ==== Sys2Proof/Word.lean ====
section
/-! DEFINITION. The word types of the engine, the type in which the model holds an exact real number that is not
rational (its arithmetic is in Machine/Exact.lean), and the record of a decoded sample. -/

namespace Sys2Proof

/-- A byte (rule R7: "A byte is 8 bits"); also the u8 and i8 fields of `10_state.md`. -/
abbrev Byte := BitVec 8

/-- A 32-bit word: bank addresses, blob lengths and the header words of a sample blob (rules R50, R55, R56). -/
abbrev Word32 := BitVec 32

/-- One command word (rule R70). -/
abbrev Word64 := BitVec 64

/-- One term `coef * 2^exp` of an exact real number; `exp` and `coef` are rational. -/
structure Pow2Term where
  exp : Rat
  coef : Rat
deriving DecidableEq, Repr

/-- An exact real number: the sum of its terms `coef * 2^exp`. Every real of the rules that is not rational is of
this form (rule R243 gives `sample_step` as a rational multiple of a rational power of two, and positions are sums
of such steps and rationals), so no rounding is needed for the value "exact reals" of the parameter `FP`
(rules R6, R12). A number has ONE canonical form: exponents in `[0, 1)`, strictly rising, no coefficient 0. -/
structure Pow2Sum where
  terms : List Pow2Term
deriving DecidableEq, Repr

/-- The real number 0. -/
def Pow2Sum.zero : Pow2Sum := ⟨[]⟩

/-- A decoded Sample (rule R61); a sequence element is an i8. -/
structure Machine.Sample where
  sampleRateHz : Nat
  loopStart : Nat
  numSamples : Nat
  isLooped : Bool
  isCompressed : Bool
  pcm : List Byte
deriving DecidableEq, Repr

end Sys2Proof
end

