-- ==== Sys2Proof/Syntax.lean ====
section
/-! DEFINITION. The operations of the engine, one constructor per row of spec/opcode_table.json. The first nineteen
are host commands, 64-bit command words (`30_encoding.md`); the last ten are selected in bank memory: the two
operations of the sample decoder by bit 0 of a blob's `flags` word (rule R82), the tone generators by the `kind` byte
of a voice record (rule R57). -/

namespace Sys2Proof

/-- The kinds of a voice record (rule R57). -/
inductive Kind where
  | empty | directSound | square1 | square2 | progWave | noise | keysplit | keysplitAll
deriving DecidableEq, Repr

/-- One operation (rule R1). Field widths are those of rule R70: `ch` is 8 bits wide, notes, velocities, controller
numbers and values 7 bits. -/
inductive Instr where
  /-- RESET (rule R101). -/
  | reset
  /-- SET_RATE (rule R102). -/
  | setRate (rateHz : Word32)
  /-- NOTE_ON (rule R160). -/
  | noteOn (isRhythm : Bool) (ch : Byte) (note velocity : BitVec 7) (voiceRef : Word32)
  /-- NOTE_OFF (rule R104). -/
  | noteOff (ch : Byte) (note : BitVec 7)
  /-- ALL_OFF (rule R105). -/
  | allOff (ch : Byte)
  /-- CC 1, modulation depth (rule R109). -/
  | ccMod (ch : Byte) (value : BitVec 7)
  /-- CC 6, pitch-bend range (rule R110). -/
  | ccBendr (ch : Byte) (value : BitVec 7)
  /-- CC 7, channel volume (rule R111). -/
  | ccVol (ch : Byte) (value : BitVec 7)
  /-- CC 10, channel pan (rule R112). -/
  | ccPan (ch : Byte) (value : BitVec 7)
  /-- CC 21, LFO speed (rule R113). -/
  | ccLfos (ch : Byte) (value : BitVec 7)
  /-- CC 22, modulation type (rule R114). -/
  | ccModt (ch : Byte) (value : BitVec 7)
  /-- CC 24, fine tune (rule R115). -/
  | ccTune (ch : Byte) (value : BitVec 7)
  /-- CC 26, LFO delay (rule R116). -/
  | ccLfodl (ch : Byte) (value : BitVec 7)
  /-- CC 29, XCMD (rule R117). -/
  | ccXcmd (ch : Byte) (value : BitVec 7)
  /-- CC 30, XCMDTYPE (rule R118). -/
  | ccXcmdtype (ch : Byte) (value : BitVec 7)
  /-- CC 123, all notes off (rule R119). -/
  | ccAlloff (ch : Byte) (value : BitVec 7)
  /-- Any other controller: ignored (rule R120). -/
  | ccOther (ch : Byte) (controller value : BitVec 7)
  /-- PBEND (rule R106). -/
  | pbend (ch : Byte) (bend : BitVec 16)
  /-- RENDER (rule R180). -/
  | render (n : Word32)
  /-- DECODE.RAW (rule R93); `looped` is bit 30 of the flags word. -/
  | decodeRaw (looped : Bool)
  /-- DECODE.DPCM (rule R94); `looped` is bit 30 of the flags word. -/
  | decodeDpcm (looped : Bool)
  /-- VOICE.EMPTY: no generator; NOTE_ON drops it (rule R161). -/
  | voiceEmpty
  /-- VOICE.DIRECTSOUND: the DirectSound generator (rule R146). -/
  | voiceDirectsound
  /-- VOICE.SQUARE1: the square generator (rule R149). -/
  | voiceSquare1
  /-- VOICE.SQUARE2: the square generator (rule R149). -/
  | voiceSquare2
  /-- VOICE.PROGWAVE: the programmable-wave generator (rule R153). -/
  | voiceProgwave
  /-- VOICE.NOISE: the noise generator (rule R150). -/
  | voiceNoise
  /-- VOICE.KEYSPLIT: not a leaf (rule R161). -/
  | voiceKeysplit
  /-- VOICE.KEYSPLITALL: not a leaf (rule R161). -/
  | voiceKeysplitall
deriving DecidableEq, Repr

end Sys2Proof
end

