-- ==== Sys2Proof/WellFormed.lean ====
section
/-! DEFINITION. The one check that the types of `Instr` do not make: the controller number of `ccOther`. -/

namespace Sys2Proof

/-- The eleven controller numbers that have a row of their own (rule R79). -/
def namedControllers : List (BitVec 7) := [1, 6, 7, 10, 21, 22, 24, 26, 29, 30, 123]

/-- An instruction that some encoding stands for. CC_OTHER "matches only when no single-controller row matches"
(opcode table, rule R120); every other operand is as wide as its field, so every value of it is encodable. -/
def Instr.wellFormed : Instr → Bool
  | .ccOther _ controller _ => !namedControllers.contains controller
  | .reset | .setRate _ | .noteOn _ _ _ _ _ | .noteOff _ _ | .allOff _ => true
  | .ccMod _ _ | .ccBendr _ _ | .ccVol _ _ | .ccPan _ _ | .ccLfos _ _ | .ccModt _ _ | .ccTune _ _ => true
  | .ccLfodl _ _ | .ccXcmd _ _ | .ccXcmdtype _ _ | .ccAlloff _ _ | .pbend _ _ | .render _ => true
  | .decodeRaw _ | .decodeDpcm _ => true
  | .voiceEmpty | .voiceDirectsound | .voiceSquare1 | .voiceSquare2 => true
  | .voiceProgwave | .voiceNoise | .voiceKeysplit | .voiceKeysplitall => true

end Sys2Proof
end

