-- ==== Sys2Proof/Decode.lean ====
section
/-! DEFINITION. Decoding, total on any bits, rejecting by name, and encoding. Three selector spaces (opcode table):
64-bit command words (rules R70 to R81), the 32-bit flags word of a sample blob (rule R82) and the kind byte of a
voice record (rule R57). -/

namespace Sys2Proof

/-- The bits an operation is read from, with the space they stand in. -/
inductive Code where
  /-- A command word on the command port (rule R70). -/
  | command (c : Word64)
  /-- The `flags` word of a sample blob (rule R82). -/
  | flags (f : Word32)
  /-- The `kind` byte of a voice record (rule R57). -/
  | kind (b : Byte)
deriving DecidableEq, Repr

/-- Why a code stands for no operation. -/
inductive Reject where
  /-- `op` 0 or 9..15 (rules R71, R80). -/
  | reservedOp
  /-- Bits 59..57, bit 47 or bit 39 not zero (rules R70, R80). -/
  | reservedBits
  /-- A field the format does not use is not zero (rules R70, R80). -/
  | deadField
  /-- A kind byte 8..255 (rule R57). -/
  | reservedKind
deriving DecidableEq, Repr

/-- A command word taken apart (rule R70). -/
structure Fields where
  op : BitVec 4
  rsvA : BitVec 3
  r : BitVec 1
  ch : BitVec 8
  rsvB : BitVec 1
  a : BitVec 7
  rsvC : BitVec 1
  b : BitVec 7
  w : BitVec 32
deriving DecidableEq, Repr

/-- The fields of a command word (rule R70). -/
def splitWord (c : Word64) : Fields where
  op := c.extractLsb' 60 4
  rsvA := c.extractLsb' 57 3
  r := c.extractLsb' 56 1
  ch := c.extractLsb' 48 8
  rsvB := c.extractLsb' 47 1
  a := c.extractLsb' 40 7
  rsvC := c.extractLsb' 39 1
  b := c.extractLsb' 32 7
  w := c.extractLsb' 0 32

/-- The command word made of its fields, the first in the high bits (rule R70). -/
def joinWord (f : Fields) : Word64 :=
  f.op ++ f.rsvA ++ f.r ++ f.ch ++ f.rsvB ++ f.a ++ f.rsvC ++ f.b ++ f.w

/-- The instruction of a control change, by its controller number (rules R79, R108). -/
def ccInstr (ch : Byte) (controller value : BitVec 7) : Instr :=
  match controller.toNat with
  | 1 => .ccMod ch value
  | 6 => .ccBendr ch value
  | 7 => .ccVol ch value
  | 10 => .ccPan ch value
  | 21 => .ccLfos ch value
  | 22 => .ccModt ch value
  | 24 => .ccTune ch value
  | 26 => .ccLfodl ch value
  | 29 => .ccXcmd ch value
  | 30 => .ccXcmdtype ch value
  | 123 => .ccAlloff ch value
  | _ => .ccOther ch controller value

/-- Accept `i` if the dead fields of its format are zero (rules R70, R72). -/
def liveOnly (deadZero : Bool) (i : Instr) : Except Reject Instr :=
  if deadZero then .ok i else .error .deadField

/-- Select the format by `op` and assemble the operands (rules R71, R72, R78). -/
def decodeFields (f : Fields) : Except Reject Instr :=
  match f.op.toNat with
  | 1 => liveOnly (f.r = 0 && f.ch = 0 && f.a = 0 && f.b = 0 && f.w = 0) .reset
  | 2 => liveOnly (f.r = 0 && f.ch = 0 && f.a = 0 && f.b = 0) (.setRate f.w)
  | 3 => liveOnly true (.noteOn (f.r = 1) f.ch f.a f.b f.w)
  | 4 => liveOnly (f.r = 0 && f.b = 0 && f.w = 0) (.noteOff f.ch f.a)
  | 5 => liveOnly (f.r = 0 && f.a = 0 && f.b = 0 && f.w = 0) (.allOff f.ch)
  | 6 => liveOnly (f.r = 0 && f.w = 0) (ccInstr f.ch f.a f.b)
  | 7 => liveOnly (f.r = 0 && f.a = 0 && f.b = 0 && f.w.extractLsb' 16 16 = 0)
      (.pbend f.ch (f.w.extractLsb' 0 16))
  | 8 => liveOnly (f.r = 0 && f.ch = 0 && f.a = 0 && f.b = 0) (.render f.w)
  | _ => .error .reservedOp

/-- Decode one command word by the procedure of rule R81. -/
def decodeCommand (c : Word64) : Except Reject Instr :=
  let f := splitWord c
  if f.rsvA = 0 ∧ f.rsvB = 0 ∧ f.rsvC = 0 then decodeFields f else .error .reservedBits

/-- Bit 0 of the flags word: the payload is 4-bit delta-PCM (rules R55, R82). -/
def flagsCompressed (f : Word32) : Bool := f.getLsbD 0

/-- Bit 30 of the flags word: the sample is looped (rules R55, R82). -/
def flagsLooped (f : Word32) : Bool := f.getLsbD 30

/-- The decoder operation a flags word selects; "Other bits ignored" (rule R82). -/
def decodeFlags (f : Word32) : Instr :=
  if flagsCompressed f then .decodeDpcm (flagsLooped f) else .decodeRaw (flagsLooped f)

/-- The kind a kind byte stands for; none for the reserved codes 8..255 (rule R57). -/
def Kind.ofByte (b : Byte) : Option Kind :=
  match b.toNat with
  | 0 => some .empty
  | 1 => some .directSound
  | 2 => some .square1
  | 3 => some .square2
  | 4 => some .progWave
  | 5 => some .noise
  | 6 => some .keysplit
  | 7 => some .keysplitAll
  | _ => none

/-- The operation a voice kind selects (rules R57, R145, R161). -/
def kindInstr : Kind → Instr
  | .empty => .voiceEmpty
  | .directSound => .voiceDirectsound
  | .square1 => .voiceSquare1
  | .square2 => .voiceSquare2
  | .progWave => .voiceProgwave
  | .noise => .voiceNoise
  | .keysplit => .voiceKeysplit
  | .keysplitAll => .voiceKeysplitall

/-- The operation a kind byte selects (rule R57). -/
def decodeKind (b : Byte) : Except Reject Instr :=
  match Kind.ofByte b with
  | some k => .ok (kindInstr k)
  | none => .error .reservedKind

/-- The decoder of the engine, over its three selector spaces. -/
def decode : Code → Except Reject Instr
  | .command c => decodeCommand c
  | .flags f => .ok (decodeFlags f)
  | .kind b => decodeKind b

/-- The code whose bits, numbered as spec/opcode_table.json numbers them, are `w`: a row of 64 bits is a command
word, one of 32 bits a flags word (little-endian, rule R51: the word's number is its value), one of 8 bits a kind
byte. -/
def codeOfBits (nbits w : Nat) : Option Code :=
  match nbits with
  | 64 => some (.command (BitVec.ofNat 64 w))
  | 32 => some (.flags (BitVec.ofNat 32 w))
  | 8 => some (.kind (BitVec.ofNat 8 w))
  | _ => none

/-- The instruction the decoder reads from an opcode-table word. -/
def decodeTableWord (nbits w : Nat) : Option Instr :=
  match codeOfBits nbits w with
  | none => none
  | some code =>
    match decode code with
    | .ok i => some i
    | .error _ => none

/-- The bit of a flag operand. -/
def boolBit (b : Bool) : BitVec 1 := if b then 1 else 0

/-- The command word with the given live fields, every reserved field zero (rule R70). -/
def commandWord (op : BitVec 4) (r : BitVec 1) (ch : Byte) (a b : BitVec 7) (w : Word32) : Word64 :=
  joinWord ⟨op, 0, r, ch, 0, a, 0, b, w⟩

/-- The command word of a control change (rule R108). -/
def ccWord (controller : BitVec 7) (ch : Byte) (value : BitVec 7) : Word64 :=
  commandWord 6 0 ch controller value 0

/-- The flags word with the given two bits and every ignored bit zero (rule R82). -/
def flagsWord (compressed looped : Bool) : Word32 :=
  (if compressed then 1 else 0) ||| (if looped then 1 <<< 30 else 0)

/-- The code of a well-formed instruction (rules R57, R70 to R72, R79, R82). -/
def encode : Instr → Code
  | .reset => .command (commandWord 1 0 0 0 0 0)
  | .setRate w => .command (commandWord 2 0 0 0 0 w)
  | .noteOn r ch note velocity ref => .command (commandWord 3 (boolBit r) ch note velocity ref)
  | .noteOff ch note => .command (commandWord 4 0 ch note 0 0)
  | .allOff ch => .command (commandWord 5 0 ch 0 0 0)
  | .ccMod ch v => .command (ccWord 1 ch v)
  | .ccBendr ch v => .command (ccWord 6 ch v)
  | .ccVol ch v => .command (ccWord 7 ch v)
  | .ccPan ch v => .command (ccWord 10 ch v)
  | .ccLfos ch v => .command (ccWord 21 ch v)
  | .ccModt ch v => .command (ccWord 22 ch v)
  | .ccTune ch v => .command (ccWord 24 ch v)
  | .ccLfodl ch v => .command (ccWord 26 ch v)
  | .ccXcmd ch v => .command (ccWord 29 ch v)
  | .ccXcmdtype ch v => .command (ccWord 30 ch v)
  | .ccAlloff ch v => .command (ccWord 123 ch v)
  | .ccOther ch controller v => .command (ccWord controller ch v)
  | .pbend ch bend => .command (commandWord 7 0 ch 0 0 (0#16 ++ bend))
  | .render n => .command (commandWord 8 0 0 0 0 n)
  | .decodeRaw looped => .flags (flagsWord false looped)
  | .decodeDpcm looped => .flags (flagsWord true looped)
  | .voiceEmpty => .kind 0
  | .voiceDirectsound => .kind 1
  | .voiceSquare1 => .kind 2
  | .voiceSquare2 => .kind 3
  | .voiceProgwave => .kind 4
  | .voiceNoise => .kind 5
  | .voiceKeysplit => .kind 6
  | .voiceKeysplitall => .kind 7

end Sys2Proof
end

