-- ==== Sys2Proof/Machine/Exact.lean ====
section
/-! DEFINITION. Arithmetic on exact real numbers `Pow2Sum` (rule R12). Sums, products and the inverse of one term are
exact operations on the terms; the one operation that needs an order is the floor, found from rational bounds that are
refined until both have the same floor. A sum of rational multiples of DIFFERENT powers `2^e`, `e` rational in `[0, 1)`,
is rational only if its one term has `e = 0`; so a number that is not rational is no integer, and the refinement ends. -/

namespace Sys2Proof

/-- `2^n` for an integer `n`. -/
def twoPow (n : Int) : Rat :=
  if 0 ≤ n then ((2 ^ n.toNat : Nat) : Rat) else 1 / ((2 ^ (-n).toNat : Nat) : Rat)

/-- Add one term to a canonical list of terms, keeping it canonical. -/
def Pow2Sum.insertTerm (t : Pow2Term) : List Pow2Term → List Pow2Term
  | [] => if t.coef = 0 then [] else [t]
  | u :: us =>
    if t.exp < u.exp then (if t.coef = 0 then u :: us else t :: u :: us)
    else if t.exp = u.exp then
      (if t.coef + u.coef = 0 then us else ⟨u.exp, t.coef + u.coef⟩ :: us)
    else u :: Pow2Sum.insertTerm t us

/-- The exact real `q * 2^e` in canonical form. -/
def Pow2Sum.monomial (q e : Rat) : Pow2Sum :=
  ⟨Pow2Sum.insertTerm ⟨e - e.floor, q * twoPow e.floor⟩ []⟩

/-- A rational number as an exact real. -/
def Pow2Sum.ofRat (q : Rat) : Pow2Sum := Pow2Sum.monomial q 0

/-- The sum. -/
def Pow2Sum.add (x y : Pow2Sum) : Pow2Sum := ⟨x.terms.foldr Pow2Sum.insertTerm y.terms⟩

/-- The product with a rational number. -/
def Pow2Sum.scale (q : Rat) (x : Pow2Sum) : Pow2Sum :=
  if q = 0 then .zero else ⟨x.terms.map fun t => ⟨t.exp, q * t.coef⟩⟩

/-- The difference. -/
def Pow2Sum.sub (x y : Pow2Sum) : Pow2Sum := x.add (y.scale (-1))

/-- The product with one term. -/
def Pow2Sum.mulTerm (t : Pow2Term) (y : Pow2Sum) : Pow2Sum :=
  y.terms.foldr (fun u acc => (Pow2Sum.monomial (t.coef * u.coef) (t.exp + u.exp)).add acc) .zero

/-- The product. -/
def Pow2Sum.mul (x y : Pow2Sum) : Pow2Sum := x.terms.foldr (fun t acc => (Pow2Sum.mulTerm t y).add acc) .zero

/-- The inverse of a number of one term, the only kind the rules divide by (rule R243); 0 for any other. -/
def Pow2Sum.inv (x : Pow2Sum) : Pow2Sum :=
  match x.terms with
  | [t] => .monomial (1 / t.coef) (-t.exp)
  | _ => .zero

/-- The canonical form of a number, whatever list of terms holds it. -/
def Pow2Sum.normal (x : Pow2Sum) : Pow2Sum :=
  x.terms.foldr (fun t acc => (Pow2Sum.monomial t.coef t.exp).add acc) .zero

/-- The largest `r + k`, `k < 2^i`, whose `m`-th power is at most `x`, found bit by bit. -/
def rootSearch (m x : Nat) : Nat → Nat → Nat
  | 0, r => r
  | i + 1, r => rootSearch m x i (if (r + 2 ^ i) ^ m ≤ x then r + 2 ^ i else r)

/-- The integer `m`-th root of `x`, for a root below `2^bits`. -/
def natRoot (m x bits : Nat) : Nat := rootSearch m x bits 0

/-- Natural numbers `(lo, hi)` with `lo ≤ 2^k * 2^(a / (m * 2^j)) ≤ hi`, for `a < m * 2^j`: an integer `m`-th root,
then `j` square roots. -/
def rootPowBounds (k m : Nat) : Nat → Nat → Nat × Nat
  | 0, a =>
    let r := natRoot m (2 ^ (a + k * m)) (k + 2)
    (r, r + 1)
  | j + 1, a =>
    let h := m * 2 ^ j
    let b := rootPowBounds k m j (a % h)
    (natRoot 2 (2 ^ (a / h) * b.1 * 2 ^ k) (k + 2), natRoot 2 (2 ^ (a / h) * b.2 * 2 ^ k) (k + 2) + 1)

/-- The number of factors 2 of `b` and the odd part of `b`; the first argument bounds the number of factors. -/
def splitTwos : Nat → Nat → Nat × Nat
  | 0, b => (0, b)
  | f + 1, b => if b % 2 = 0 then ((splitTwos f (b / 2)).1 + 1, (splitTwos f (b / 2)).2) else (0, b)

/-- Bounds of `2^e`, `0 ≤ e < 1`, in units of `2^-k`. -/
def powTwoBounds (k : Nat) (e : Rat) : Nat × Nat :=
  if e = 0 then (2 ^ k, 2 ^ k)
  else
    let jm := splitTwos (e.den.log2 + 1) e.den
    rootPowBounds k jm.2 jm.1 e.num.toNat

/-- A rational lower bound of a canonical number, its powers of two taken to `k` binary places. -/
def Pow2Sum.lower (k : Nat) (x : Pow2Sum) : Rat :=
  x.terms.foldr (fun t acc =>
    acc + t.coef * (if 0 ≤ t.coef then (powTwoBounds k t.exp).1 else (powTwoBounds k t.exp).2) / (2 ^ k : Nat)) 0

/-- A rational upper bound of a canonical number, its powers of two taken to `k` binary places. -/
def Pow2Sum.upper (k : Nat) (x : Pow2Sum) : Rat :=
  x.terms.foldr (fun t acc =>
    acc + t.coef * (if 0 ≤ t.coef then (powTwoBounds k t.exp).2 else (powTwoBounds k t.exp).1) / (2 ^ k : Nat)) 0

/-- Refine the bounds, doubling the places, until both have one floor. -/
def Pow2Sum.floorSearch (x : Pow2Sum) : Nat → Nat → Int
  | 0, k => (x.lower k).floor
  | fuel + 1, k =>
    if (x.lower k).floor = (x.upper k).floor then (x.lower k).floor
    else Pow2Sum.floorSearch x fuel (2 * k)

/-- A number of doublings that suffices: with `D` the degree of the number field and `S` the size of the
coefficients in bits, a number that is not an integer is farther than `2^(-D * S)` from every integer. -/
def Pow2Sum.fuel (x : Pow2Sum) : Nat :=
  x.terms.foldr (fun t n => n * t.exp.den) 1 *
    x.terms.foldr (fun t n => n + 2 * t.coef.num.natAbs.log2 + 4 * t.coef.den.log2 + 16) 64

/-- The floor of a canonical number. -/
def Pow2Sum.floorNormal (x : Pow2Sum) : Int :=
  match x.terms with
  | [] => 0
  | [t] => if t.exp = 0 then t.coef.floor else x.floorSearch x.fuel 32
  | _ => x.floorSearch x.fuel 32

/-- `floor(x)` (rule R12). -/
def Pow2Sum.floor (x : Pow2Sum) : Int := x.normal.floorNormal

end Sys2Proof
end

