-- ==== Sys2Proof/Config.lean ====
section
/-! DEFINITION. What the spec leaves to the platform and what it leaves free. The parameters of rule R6 that are
plain data stand in `Machine.Params` (a field of the state, so that a claim about every state holds for every value
of them); here stand the power-on rate and the free values. -/

namespace Sys2Proof

/-- `RATE_POR`, the power-on value of `ENG.sample_rate` (rules R6, R271): "real > 0, or none". DESIGN CHOICE
(notes/assumptions/1.md), unsafe: the spec's default is `none`; the model names 44100, as rule R271 lets a model do, so
that a program runs from reset. -/
def Config.ratePor : Option Rat := some 44100

/-- The agent the lock admits when both have a command waiting: is it the host? "either may be admitted" (rule R63,
decision D38, item U15). A free value: nothing constrains it; the `n`-th arbitration reads `Config.grantHost n`
(notes/assumptions/2.md). -/
opaque Config.grantHost : Nat → Bool

/-- The entry of `BASE_FREQ_TABLE` at an index 12..15, which the table does not have (rule R132). Only a
`SCALE_TABLE` other than the default can ask for it. A free value (notes/assumptions/3.md). -/
opaque Config.baseFreqOutside : Nat → Int

/-- The values of the open parameter `DS_EDGE(sample, i)` (rules R6, R147) other than its default: for every number `k`
one function of the sample and of the index. A free value (notes/assumptions/4.md). -/
opaque Config.dsEdgeOther : Nat → Machine.Sample → Nat → Byte

/-! The values of the open parameter `FP` (rules R6, R12, decision D18) other than exact reals: for every number `k` one
"record of total functions (`add`, `mul`, `div`, `pow2`, `cos`, `sin`, `atan2`, `floor`, `to_f32`) of which it assumes
nothing but that each depends on its operands alone". Free values (notes/assumptions/9.md); a result is a rational
number, as every binary32 or binary64 number is. -/

/-- `add` of record `k`; a difference adds the negated number. -/
opaque Config.fpAdd : Nat → Pow2Sum → Pow2Sum → Rat

/-- `mul` of record `k`. -/
opaque Config.fpMul : Nat → Pow2Sum → Pow2Sum → Rat

/-- `div` of record `k`. -/
opaque Config.fpDiv : Nat → Pow2Sum → Pow2Sum → Rat

/-- `pow2` of record `k`. -/
opaque Config.fpPow2 : Nat → Pow2Sum → Rat

/-- `cos` of record `k`. -/
opaque Config.fpCos : Nat → Pow2Sum → Rat

/-- `sin` of record `k`. -/
opaque Config.fpSin : Nat → Pow2Sum → Rat

/-- `atan2(y, x)` of record `k`. -/
opaque Config.fpAtan2 : Nat → Pow2Sum → Pow2Sum → Rat

/-- `floor` of record `k`. -/
opaque Config.fpFloor : Nat → Pow2Sum → Int

/-- `to_f32` of record `k`. -/
opaque Config.fpToF32 : Nat → Pow2Sum → Rat

/-- The number that stands for the constant `pi` with record `k`. -/
opaque Config.fpPi : Nat → Rat

/-- A bound on the turns of the loop of rule R150 with record `k`: with functions of which nothing is known the rules do
not say that the loop ends (rule R181 says it of the reals). -/
opaque Config.fpLoopBound : Nat → Nat

end Sys2Proof
end

