-- ==== Sys2Proof/Machine/Tables.lean ====
section
/-! DEFINITION. The constants of rule R5 and the default values of the tables of rule R6. -/

namespace Sys2Proof.Machine

/-- `GBA_FRAME_HZ` = 59.7275 (rule R5). -/
def gbaFrameHz : Rat := 597275 / 10000

/-- `MASTER_GAIN` = 1/8 (rules R5, R192). -/
def masterGain : Rat := 1 / 8

/-- `CGB_ENV_MAX` = 15 (rule R5); also `envelope_goal` (rule R167). -/
def cgbEnvMax : Int := 15

/-- `DS_ENV_MAX` = 255 (rule R5). -/
def dsEnvMax : Int := 255

/-- `DEFAULT_SAMPLE_HZ` = 8000 (rules R5, R92). -/
def defaultSampleHz : Nat := 8000

/-- `SAMPLE_HEADER_BYTES` = 16 (rule R5). -/
def sampleHeaderBytes : Nat := 16

/-- The numerator of the square frequency (rules R5, R134). -/
def squareClock : Rat := 131072

/-- The numerator of the programmable-wave frequency (rules R5, R135). -/
def waveClock : Rat := 65536

/-- The numerator of the noise frequency (rules R5, R137). -/
def noiseClock : Rat := 524288

/-- `DELTA_TABLE` (rules R5, R94), index 0..15. -/
def deltaTable : List Int := [0, 1, 4, 9, 16, 25, 36, 49, -64, -49, -36, -25, -16, -9, -4, -1]

/-- `BASE_FREQ_TABLE` (rules R5, R132), index 0..11. -/
def baseFreqTable : List Int :=
  [-2004, -1891, -1785, -1685, -1591, -1501, -1417, -1337, -1262, -1192, -1125, -1062]

/-- The entry of `BASE_FREQ_TABLE` at `i`; a free value beyond its twelve entries. -/
def baseFreq (i : Nat) : Int :=
  match baseFreqTable[i]? with
  | some v => v
  | none => Config.baseFreqOutside i

/-- `DUTY` (rules R5, R149), index 0..3. -/
def dutyThreshold (i : Nat) : Rat :=
  match i with
  | 0 => 1 / 8
  | 1 => 1 / 4
  | 2 => 1 / 2
  | _ => 3 / 4

/-- The default `SCALE_TABLE` (rule R131): `((k div 12) << 4) | (k mod 12)`. -/
def defaultScaleTable : Vector Byte 132 :=
  ⟨⟨(List.range 132).map fun k => BitVec.ofNat 8 (k / 12 * 16 + k % 12)⟩, by simp⟩

/-- An entry of the default `NOISE_TABLE` (rule R136): `((13 - i div 4) << 4) | (7 - i mod 4)` for `i < 56`, then
3, 2, 1, 0. -/
def defaultNoiseEntry (i : Nat) : Byte :=
  BitVec.ofNat 8 (if i < 56 then (13 - i / 4) * 16 + (7 - i % 4) else 59 - i)

/-- The default `NOISE_TABLE` (rule R136), 60 entries. -/
def defaultNoiseTable : Vector Byte 60 :=
  ⟨⟨(List.range 60).map defaultNoiseEntry⟩, by simp⟩

end Sys2Proof.Machine
end

