-- ==== Sys2Proof/Machine/State.lean ====
section
/-! DEFINITION. The state of the engine as plain data (`10_state.md`), its inputs (bank memory and parameters, which
no operation writes), its ports, and the state after reset. INVENTORY.md lists every field with its rule. -/

namespace Sys2Proof.Machine

/-- The LFO, tune and echo registers of a channel (rule R27). -/
structure ModState where
  mod : Byte
  lfoSpeed : Byte
  lfoPhaseCounter : Byte
  modType : Byte
  /-- i8 -/
  fineTune : Byte
  lfoDelay : Byte
  lfoDelayCountdown : Byte
  /-- i8, the LFO's current output -/
  modM : Byte
  xcmdType : Byte
  pseudoEchoVol : Byte
  pseudoEchoLen : Byte
deriving DecidableEq, Repr

/-- The default of `MODSTATE_RESET` (rule R272): zero in every field. -/
def ModState.zero : ModState := ⟨0, 0, 0, 0, 0, 0, 0, 0, 0, 0, 0⟩

/-- A channel state `CH[c]` (rules R26, R27). -/
structure Channel where
  volume : Rat
  pan : Rat
  pitchBendSemitones : Rat
  /-- i32 -/
  pitchBendRange : BitVec 32
  /-- "no operation of the engine writes it and no rule reads it" but RESET, which writes 0 (rules R26, R101). -/
  program : Nat
  modState : ModState
deriving DecidableEq, Repr

/-- The phases of an envelope (rule R29). -/
inductive Phase where
  | attack | decay | sustain | release | echo | off
deriving DecidableEq, Repr

/-- A voice slot `V[s]` (rules R28 to R31). -/
structure Slot where
  active : Bool
  channel : Fin 16
  note : BitVec 7
  velocity : BitVec 7
  /-- bank address of the voice record -/
  voiceRef : Word32
  isRhythm : Bool
  /-- u64 -/
  triggerOrder : BitVec 64
  phase : Phase
  envelopeVolume : Int
  isCgbVoice : Bool
  envelopeCounter : Int
  envelopeGoal : Int
  sustainGoal : Int
  pseudoEchoVol : Byte
  pseudoEchoLen : Int
  samplePos : Pow2Sum
  sampleStep : Pow2Sum
  squarePhase : Rat
  squarePhaseInc : Rat
  lfsr : BitVec 16
  noiseTimer : Rat
  noiseInterval : Rat
  /-- i8, +64 or -64 -/
  noiseOutput : Byte
  noiseWidth7bit : Bool
  /-- The pan position `p` of rule R166. The gains of rule R31 are `pan_l = cos(p * pi / 2)` and
  `pan_r = sin(p * pi / 2)`; "a model may store `p` in place of recovering it" (rule R190). -/
  pan : Rat
  pitchBend : Rat
deriving DecidableEq, Repr

/-- A slot as State.reset has it: inactive and Off (rule R273), every other field at a value the model names
(notes/assumptions/5.md; rule R36: unspecified, never read). -/
def Slot.blank : Slot where
  active := false
  channel := 0
  note := 0
  velocity := 0
  voiceRef := 0
  isRhythm := false
  triggerOrder := 0
  phase := .off
  envelopeVolume := 0
  isCgbVoice := false
  envelopeCounter := 0
  envelopeGoal := 0
  sustainGoal := 0
  pseudoEchoVol := 0
  pseudoEchoLen := 0
  samplePos := .zero
  sampleStep := .zero
  squarePhase := 0
  squarePhaseInc := 0
  lfsr := 0
  noiseTimer := 0
  noiseInterval := 0
  noiseOutput := 0
  noiseWidth7bit := false
  pan := 0
  pitchBend := 0

/-- The holder of `ENG.lock` (rule R25). -/
inductive Lock where
  | free | host | audio
deriving DecidableEq, Repr

/-- The value of the open parameter `DS_EDGE` (rules R6, R147): the default rule, or another function of the sample
and the index, named by a number (`Config.dsEdgeOther`). -/
inductive DsEdge where
  | standard
  | other (k : Nat)
deriving DecidableEq, Repr

/-- The value of the open parameter `FP` (rules R6, R12): exact reals, the default, or a record of rounding functions,
named by a number (`Config.fpAdd` and the others). -/
inductive Fp where
  | exact
  | rounded (k : Nat)
deriving DecidableEq, Repr

/-- The parameters of rule R6 that are plain data, and one of the model's own: inputs that no operation writes. -/
structure Params where
  scaleTable : Vector Byte 132
  noiseTable : Vector Byte 60
  modstateReset : ModState
  /-- `LFSR_SEED(false)` -/
  lfsrSeed15 : BitVec 16
  /-- `LFSR_SEED(true)` -/
  lfsrSeed7 : BitVec 16
  noisePolarity : Bool
  dsEdge : DsEdge
  /-- MODEL's own: `false` is the engine of the numbered rules, where a DirectSound voice on an empty sample "stays
  active" (rules R146, R154, R233); `true` is the variant of decision D28, where it "ends at its first frame". That the
  model has the variant too is a DESIGN CHOICE (notes/assumptions/16.md). -/
  emptyEnds : Bool
  fp : Fp
  /-- `REF_HZ`, a real > 0 (a rational one: notes/assumptions/11.md) -/
  refHz : Rat
  /-- `BANK_SIZE` (rule R50) -/
  bankSize : Nat
deriving DecidableEq, Repr

/-- The parameters at the defaults of rule R6. `BANK_SIZE` has no default: DESIGN CHOICE 2^32, the largest value
rule R50 allows (notes/assumptions/6.md). `emptyEnds` is as rule R154 states
(notes/assumptions/16.md). -/
def Params.standard : Params where
  scaleTable := defaultScaleTable
  noiseTable := defaultNoiseTable
  modstateReset := .zero
  lfsrSeed15 := 0x7FFF
  lfsrSeed7 := 0x007F
  noisePolarity := true
  dsEdge := .standard
  emptyEnds := false
  fp := .exact
  refHz := 440
  bankSize := 2 ^ 32

/-- Bank memory (rule R50): the listed bytes, addresses strictly rising; `Memory.unlisted` (Machine/Ops.lean) is what
an unlisted address reads as, and no entry holds that value. -/
abbrev Memory := List Host.Cell

/-- The inputs of the engine: bank memory and parameters. "not state: they are inputs that do not change while the
engine runs" (`10_state.md`, rule R64). -/
structure Platform where
  bank : Memory
  params : Params
deriving DecidableEq, Repr

/-- One contribution to one side of an output frame: the real number `gain * cos(quarter * pi / 2)`. A right-hand
gain `sin(p * pi / 2)` is `cos((1 - p) * pi / 2)`. -/
structure AudioTerm where
  gain : Pow2Sum
  quarter : Rat
deriving DecidableEq, Repr

/-- One sample of the audio port. As an exact real number, `clip terms` is the sum of the terms, limited to [-1, +1]
(rule R192); with a record of rounding functions it is a number, `rounded x`. Its value as a real number is
`Level.toReal` (Safety.lean). -/
inductive Level where
  | clip (terms : List AudioTerm)
  | rounded (x : Rat)
deriving DecidableEq, Repr

/-- One stereo frame of the audio port (rule R182). -/
structure Frame where
  left : Level
  right : Level
deriving DecidableEq, Repr

/-- An internal operation asked for by itself: the MODEL's own (notes/assumptions/7.md). No command asks for one;
`withFetchWord` and claims about the rows DECODE and VOICE of the opcode table do. -/
inductive UnitRequest where
  /-- apply the sample decoder (rule R90) to the blob at `decAddr`, `decLen` -/
  | decode
  /-- step the tone generator (rule R145) of slot `genSlot` -/
  | generator
deriving DecidableEq, Repr

/-- The state of the engine and of its ports. -/
structure State where
  /-- `ENG.sample_rate` (rule R22); `none` is the value `none` of `RATE_POR` (rules R6, R195, R271). -/
  sampleRate : Option Rat
  /-- `ENG.frame_acc` (rule R23) -/
  frameAcc : Rat
  /-- `ENG.trigger_counter`, u64 (rule R24) -/
  triggerCounter : BitVec 64
  /-- `ENG.lock` (rule R25) -/
  lock : Lock
  /-- `CH[0..15]` (rules R26, R27) -/
  ch : Vector Channel 16
  /-- `V[0..23]` (rules R28 to R31) -/
  v : Vector Slot 24
  /-- bank memory and parameters: inputs, not state (rules R50, R6) -/
  platform : Platform
  /-- command port: commands the host agent waits with, oldest first (rules R4, R63) -/
  hostQueue : List Word64
  /-- command port: commands the audio agent waits with, oldest first (rules R4, R63) -/
  audioQueue : List Word64
  /-- MODEL's own: how many arbitrations have been made; selects the next free choice of rule R63 -/
  arbitrations : Nat
  /-- audio port: the frames emitted so far, oldest first (rules R13, R182) -/
  audio : List Frame
  /-- MODEL's own: an internal operation asked for by itself -/
  request : Option UnitRequest
  /-- MODEL's own: operand `a` of DECODE (rule R90) -/
  decAddr : Word32
  /-- MODEL's own: operand `len` of DECODE (rule R90) -/
  decLen : Word32
  /-- MODEL's own: where DECODE delivers its result; `none` is `LoadError` (rules R90, R95) -/
  decResult : Option Sample
  /-- MODEL's own: operand `s` of `osc(s)` (rule R145) -/
  genSlot : Fin 24
  /-- MODEL's own: where `osc(s)` delivers its result (rule R145) -/
  genOut : Pow2Sum
deriving DecidableEq, Repr

/-- Why a step faults: never. "The engine raises no exception, trap, fault or error status"; "The list of cause codes
is empty" (rule R250), so this type has no constructor. -/
inductive Fault where
deriving DecidableEq, Repr

/-- Why a step is refused. -/
inductive Refusal where
  /-- An instruction with no meaning in this model; no arm of `exec` raises it. -/
  | notModelled (mnemonic : String)
  /-- NOTE_ON, PBEND and RENDER while `ENG.sample_rate` is `none`: "the three commands are refused" (rule R195).
  Safe: the model stops where the spec gives no behaviour. -/
  | rateNotSet
  /-- NOTE_ON with a voice record outside the ranges of rule R59: "`refuse` the NOTE_ON that names the record" (item
  U5). Safe: the model stops where the spec gives no behaviour. -/
  | malformedVoice
deriving DecidableEq, Repr

/-- The values RESET gives a channel (rules R101, R273). -/
def Channel.resetValue (modstateReset : ModState) : Channel where
  volume := 1
  pan := 1 / 2
  pitchBendSemitones := 0
  pitchBendRange := 2
  program := 0
  modState := modstateReset

/-- The engine at power-on, after its first RESET (rules R270, R273), the bank unpublished and the command port
empty. -/
def State.reset : State where
  sampleRate := Config.ratePor
  frameAcc := 0
  triggerCounter := 0
  lock := .free
  ch := Vector.replicate 16 (Channel.resetValue .zero)
  v := Vector.replicate 24 .blank
  platform := ⟨[], .standard⟩
  hostQueue := []
  audioQueue := []
  arbitrations := 0
  audio := []
  request := none
  decAddr := 0
  decLen := 0
  decResult := none
  genSlot := 0
  genOut := .zero

end Sys2Proof.Machine
end

