-- ==== Sys2Proof/Machine/Fp.lean ====
section
/-! DEFINITION. Real arithmetic under the parameter `FP` (rules R6, R12): with exact reals the operations are those of the
rational numbers and of `Pow2Sum`; with a record of rounding functions each is the record's function of the operands. The
operations whose name ends in `Q` are on numbers that are rational with either. Comparison, `min`, `max` and negation
round nothing, and what the rules write with integers only (`2^(shift + 1)`, `fine_tune * 4`, `2048 - reg`, `k - 69`) is
computed with integers, not with the record: DESIGN CHOICE (notes/assumptions/30.md). -/

namespace Sys2Proof.Machine

/-- `x + y`. -/
def Fp.addQ (fp : Fp) (x y : Rat) : Rat :=
  match fp with
  | .exact => x + y
  | .rounded k => Config.fpAdd k (.ofRat x) (.ofRat y)

/-- `x - y`. -/
def Fp.subQ (fp : Fp) (x y : Rat) : Rat :=
  match fp with
  | .exact => x - y
  | .rounded k => Config.fpAdd k (.ofRat x) (.ofRat (-y))

/-- `x * y`. -/
def Fp.mulQ (fp : Fp) (x y : Rat) : Rat :=
  match fp with
  | .exact => x * y
  | .rounded k => Config.fpMul k (.ofRat x) (.ofRat y)

/-- `x / y`. -/
def Fp.divQ (fp : Fp) (x y : Rat) : Rat :=
  match fp with
  | .exact => x / y
  | .rounded k => Config.fpDiv k (.ofRat x) (.ofRat y)

/-- `floor(x)`. -/
def Fp.floorQ (fp : Fp) (x : Rat) : Int :=
  match fp with
  | .exact => x.floor
  | .rounded k => Config.fpFloor k (.ofRat x)

/-- `to_f32(x)`: rounding to binary32, which the source names for the bend and for the output buffer (rule R12). -/
def Fp.toF32Q (fp : Fp) (x : Rat) : Rat :=
  match fp with
  | .exact => x
  | .rounded k => Config.fpToF32 k (.ofRat x)

/-- `x + y`. -/
def Fp.add (fp : Fp) (x y : Pow2Sum) : Pow2Sum :=
  match fp with
  | .exact => x.add y
  | .rounded k => .ofRat (Config.fpAdd k x y)

/-- `x - y`. -/
def Fp.sub (fp : Fp) (x y : Pow2Sum) : Pow2Sum :=
  match fp with
  | .exact => x.sub y
  | .rounded k => .ofRat (Config.fpAdd k x (y.scale (-1)))

/-- `x * y`. -/
def Fp.mul (fp : Fp) (x y : Pow2Sum) : Pow2Sum :=
  match fp with
  | .exact => x.mul y
  | .rounded k => .ofRat (Config.fpMul k x y)

/-- `x / y`, for a `y` of one term (rule R243). -/
def Fp.div (fp : Fp) (x y : Pow2Sum) : Pow2Sum :=
  match fp with
  | .exact => x.mul y.inv
  | .rounded k => .ofRat (Config.fpDiv k x y)

/-- `x * q`. -/
def Fp.scale (fp : Fp) (q : Rat) (x : Pow2Sum) : Pow2Sum :=
  match fp with
  | .exact => x.scale q
  | .rounded k => .ofRat (Config.fpMul k x (.ofRat q))

/-- `x / q`. -/
def Fp.quot (fp : Fp) (x : Pow2Sum) (q : Rat) : Pow2Sum :=
  match fp with
  | .exact => x.scale (1 / q)
  | .rounded k => .ofRat (Config.fpDiv k x (.ofRat q))

/-- `2^e`. -/
def Fp.pow2 (fp : Fp) (e : Rat) : Pow2Sum :=
  match fp with
  | .exact => .monomial 1 e
  | .rounded k => .ofRat (Config.fpPow2 k (.ofRat e))

/-- `floor(x)`. -/
def Fp.floor (fp : Fp) (x : Pow2Sum) : Int :=
  match fp with
  | .exact => x.floor
  | .rounded k => Config.fpFloor k x

/-- `frac(x) = x - floor(x)` (rule R12). -/
def Fp.frac (fp : Fp) (x : Pow2Sum) : Pow2Sum := fp.sub x (.ofRat (fp.floor x))

/-- `x mod n = x - n * floor(x / n)` for a positive integer `n` (rule R12). -/
def Fp.modNat (fp : Fp) (x : Pow2Sum) (n : Nat) : Pow2Sum :=
  fp.sub x (.ofRat (fp.mulQ n (fp.floor (fp.quot x n))))

/-- `p * pi / 2` with record `k` (rules R166, R190). -/
def roundedAngle (k : Nat) (p : Rat) : Rat := (Fp.rounded k).divQ ((Fp.rounded k).mulQ p (Config.fpPi k)) 2

/-- `cos(p * pi / 2)` with record `k` (rules R166, R190). -/
def roundedCos (k : Nat) (p : Rat) : Rat := Config.fpCos k (.ofRat (roundedAngle k p))

/-- `sin(p * pi / 2)` with record `k` (rules R166, R190). -/
def roundedSin (k : Nat) (p : Rat) : Rat := Config.fpSin k (.ofRat (roundedAngle k p))

/-- `atan2(pan_r, pan_l) / (pi / 2)` for the gains of the pan position `p` in 0..1 (rule R190): `p` itself in exact
reals. -/
def Fp.basePan (fp : Fp) (p : Rat) : Rat :=
  match fp with
  | .exact => p
  | .rounded k =>
    (Fp.rounded k).divQ (Config.fpAtan2 k (.ofRat (roundedSin k p)) (.ofRat (roundedCos k p)))
      ((Fp.rounded k).divQ (Config.fpPi k) 2)

end Sys2Proof.Machine
end

