-- ==== Sys2Proof/Machine/Ops.lean ====
section
/-! DEFINITION. The shared operations over bank memory, records in memory, channels and slots. The engine takes no
exception and returns from none: "There is no trap entry" (rule R260), "There is no trap return" (rule R261); what a bad
command meets instead is `drop`. -/

namespace Sys2Proof.Machine

/-- What an unlisted bank address reads as: 0. DESIGN CHOICE (notes/assumptions/8.md), unsafe: the spec gives the bank no
contents; its programs take "all other bank bytes zero" (`95_test_vectors.md` section 3). -/
def Memory.unlisted : Byte := 0

/-- The byte at a bank address. -/
def Memory.read (m : Memory) (a : Nat) : Byte :=
  match m with
  | [] => Memory.unlisted
  | c :: cs => if c.1 = a then c.2 else Memory.read cs a

/-- Set the byte at a bank address, keeping the canonical form. The engine never writes the bank (rule R53); this is
how the host's publishing of a bank is written down. -/
def Memory.write (m : Memory) (a : Nat) (b : Byte) : Memory :=
  match m with
  | [] => if b = Memory.unlisted then [] else [(a, b)]
  | c :: cs =>
    if a < c.1 then (if b = Memory.unlisted then c :: cs else (a, b) :: c :: cs)
    else if a = c.1 then (if b = Memory.unlisted then cs else (a, b) :: cs)
    else c :: Memory.write cs a b

/-- The canonical form: addresses strictly rising, no entry equal to what an unlisted address reads as. -/
abbrev Memory.wf (m : Memory) : Prop :=
  m.Pairwise (fun c d => c.1 < d.1) ∧ ∀ c ∈ m, c.2 ≠ Memory.unlisted

/-- `MemRead(addr, 4)`: little-endian (rules R13, R51). -/
def Memory.read32 (m : Memory) (a : Nat) : Nat :=
  (m.read a).toNat + 256 * (m.read (a + 1)).toNat + 65536 * (m.read (a + 2)).toNat
    + 16777216 * (m.read (a + 3)).toNat

/-- Store a list of bytes at rising addresses. -/
def Memory.writeBytes (m : Memory) (a : Nat) : List Byte → Memory
  | [] => m
  | b :: bs => Memory.writeBytes (m.write a b) (a + 1) bs

/-- Are the `n` bytes at `a` all inside the bank (rules R50, R54)? -/
def Platform.contains (pf : Platform) (a n : Nat) : Bool := a + n ≤ pf.params.bankSize

/-- A voice record (rule R56). -/
structure Voice where
  kind : Kind
  baseMidiKey : Byte
  pan : Byte
  param : Byte
  attack : Byte
  decay : Byte
  sustain : Byte
  release : Byte
  sampleAddr : Word32
  sampleLen : Word32
deriving DecidableEq, Repr

/-- An Empty voice. -/
def emptyVoice : Voice := ⟨.empty, 0, 0, 0, 0, 0, 0, 0, 0, 0⟩

/-- The kind of a kind byte; the reserved codes "read as Empty" (rule R57). -/
def kindOfByte (b : Byte) : Kind :=
  match Kind.ofByte b with
  | some k => k
  | none => .empty

/-- `voice(s)`: the record at a bank address (rule R56); one not wholly inside the bank "reads as an Empty voice"
(rule R54). -/
def readVoice (pf : Platform) (ref : Word32) : Voice :=
  if pf.contains ref.toNat 16 then
    let a := ref.toNat
    { kind := kindOfByte (pf.bank.read a)
      baseMidiKey := pf.bank.read (a + 1)
      pan := pf.bank.read (a + 2)
      param := pf.bank.read (a + 3)
      attack := pf.bank.read (a + 4)
      decay := pf.bank.read (a + 5)
      sustain := pf.bank.read (a + 6)
      release := pf.bank.read (a + 7)
      sampleAddr := BitVec.ofNat 32 (pf.bank.read32 (a + 8))
      sampleLen := BitVec.ofNat 32 (pf.bank.read32 (a + 12)) }
  else emptyVoice

/-- A kind NOTE_ON plays: a leaf with a tone generator (rules R57, R161). -/
def kindSounds : Kind → Bool
  | .directSound | .square1 | .square2 | .progWave | .noise => true
  | .empty | .keysplit | .keysplitAll => false

/-- "CGB voice: one of Square1/Square2/Noise/ProgWave" (rules R15, R57). -/
def kindIsCgb : Kind → Bool
  | .square1 | .square2 | .progWave | .noise => true
  | .directSound | .empty | .keysplit | .keysplitAll => false

/-- The conditions of rule R59 (a) to (c): `sustain` in 0..15 for CGB kinds, `pan` in 0..127, `base_midi_key` in
0..127. -/
def Voice.wellFormed (vo : Voice) : Bool :=
  (!kindIsCgb vo.kind || vo.sustain.toNat ≤ 15) && vo.pan.toNat ≤ 127 && vo.baseMidiKey.toNat ≤ 127

/-- A command that is dropped "writes nothing, and the next command follows" (rules R13, R250). -/
def drop (s : State) : Host.Outcome State Fault Refusal := .next s

/-- Apply a function to every element, in index order. -/
def mapVec {α β : Type} {n : Nat} (f : α → β) (xs : Vector α n) : Vector β n :=
  ⟨⟨xs.toList.map f⟩, by simp⟩

/-- The state with the channel file `cs`. -/
def State.withChannels (s : State) (cs : Vector Channel 16) : State := { s with ch := cs }

/-- The state with the voice pool `vs`. -/
def State.withSlots (s : State) (vs : Vector Slot 24) : State := { s with v := vs }

/-- `CH[c] <- x`. -/
def State.setChannel (s : State) (c : Fin 16) (x : Channel) : State := s.withChannels (s.ch.set c.val x)

/-- `V[i] <- x`. -/
def State.setSlot (s : State) (i : Fin 24) (x : Slot) : State := s.withSlots (s.v.set i.val x)

/-- Apply `f` to every slot. -/
def State.mapSlots (s : State) (f : Slot → Slot) : State := s.withSlots (mapVec f s.v)

end Sys2Proof.Machine
end

