-- ==== Sys2Proof/Machine/Operands.lean ====
section
/-! DEFINITION. Operand assembly (rule R78) and the integer operations of the notation (rules R7 to R10). -/

namespace Sys2Proof.Machine

/-- The channel operand: 0..15 are channels, 16..255 are not (rules R70, R78). -/
def channelOf (ch : Byte) : Option (Fin 16) :=
  if h : ch.toNat < 16 then some ⟨ch.toNat, h⟩ else none

/-- The bend operand: `sext_16(c[15:0])` (rule R78). -/
def bendOf (bend : BitVec 16) : Int := bend.toInt

/-- A controller value as the u8 it is stored in (rule R27). -/
def byteOf (value : BitVec 7) : Byte := value.setWidth 8

/-- A controller value as the real `value / 127` (rules R111, R112). -/
def ratioOf (fp : Fp) (value : BitVec 7) : Rat := fp.divQ (value.toNat : Rat) 127

/-- `i8(v)`: keep the low eight bits (rule R10). -/
def i8 (v : Int) : Byte := BitVec.ofInt 8 v

/-- `v >> n`, flooring (rule R9). -/
def sar (v : Int) (n : Nat) : Int := v.fdiv (2 ^ n)

/-- `clamp(v, lo, hi)` on integers (rule R8). -/
def clampInt (v lo hi : Int) : Int := min (max v lo) hi

/-- `clamp(v, lo, hi)` on reals (rule R8). -/
def clampRat (v lo hi : Rat) : Rat := min (max v lo) hi

end Sys2Proof.Machine
end

