-- ==== Sys2Proof/Machine/Flags.lean ====
section
/-! DEFINITION. The flags and predicates of a slot (rule R32) and their transitions. -/

namespace Sys2Proof.Machine

/-- `go_off(s)`: `phase <- Off; active <- false` (rule R218); also what a retired, killed, reset or ended voice gets
(rules R101, R105, R146, R162). -/
def goOff (v : Slot) : Slot := { v with active := false, phase := .off }

/-- A slot that sounds the note: active, of this channel and note (rules R104, R162). -/
def Slot.sounds (v : Slot) (ch : Byte) (note : BitVec 7) : Bool :=
  v.active && v.channel.val = ch.toNat && v.note = note

/-- A phase that NOTE_OFF ends: not in {Release, Echo, Off} (rule R104). -/
def Phase.held : Phase → Bool
  | .attack | .decay | .sustain => true
  | .release | .echo | .off => false

/-- `env_max` (rule R188). -/
def Slot.envMax (v : Slot) : Int := if v.isCgbVoice then cgbEnvMax else dsEnvMax

/-- `mod_type = 0`: vibrato (rule R206). -/
def ModState.vibrato (m : ModState) : Bool := m.modType = 0

/-- `mod_type = 1`: tremolo (rule R206). -/
def ModState.tremolo (m : ModState) : Bool := m.modType = 1

/-- `mod_type = 2`: auto-pan (rule R206). -/
def ModState.autoPan (m : ModState) : Bool := m.modType = 2

/-- `level(bit)`: +64 for the bit the polarity makes positive, else -64 (rule R151). -/
def noiseLevel (polarity : Bool) (bit : Bool) : Byte := if bit = polarity then 64 else i8 (-64)

end Sys2Proof.Machine
end

