-- ==== Sys2Proof/Machine/Decoder.lean ====
section
/-! DEFINITION. The sample decoder (`40_sample_decoder.md`) and the operations DECODE.RAW and DECODE.DPCM. -/

namespace Sys2Proof.Machine

/-- `payload(i)` for `0 <= i < n`: the bytes that follow the header of the blob at `a` (rule R91). -/
def payload (m : Memory) (a n : Nat) : List Byte :=
  (List.range n).map fun i => m.read (a + sampleHeaderBytes + i)

/-- `sample_rate_hz` of a header (rule R92). -/
def sampleRateOf (rate1024 : Nat) : Nat := if rate1024 = 0 then defaultSampleHz else rate1024 / 1024

/-- `num_samples_hdr` of a header (rule R91). -/
def headerCount (lengthMinusOne : Nat) : Nat := (lengthMinusOne + 1) % 2 ^ 32

/-- The sample of a header and its PCM (rules R91 to R94). -/
def sampleOf (m : Memory) (a : Nat) (looped compressed : Bool) (pcm : List Byte) : Sample where
  sampleRateHz := sampleRateOf (m.read32 (a + 4))
  loopStart := m.read32 (a + 8)
  numSamples := pcm.length
  isLooped := looped
  isCompressed := compressed
  pcm := pcm

/-- DECODE.RAW on a blob that can be read (rule R93). -/
def decodeRawBlob (m : Memory) (a len : Nat) (looped : Bool) : Sample :=
  sampleOf m a looped false
    (payload m a (min (len - sampleHeaderBytes) (headerCount (m.read32 (a + 12)))))

/-- One accumulator step of the delta decoder (rule R94). -/
def deltaStep (acc : Byte) (nibble : Nat) : Byte := i8 (acc.toInt + deltaTable.getD nibble 0)

/-- The delta decoder: low nibble first, then high nibble (rule R94). -/
def deltaDecode (acc : Byte) : List Byte → List Byte
  | [] => []
  | b :: bs =>
    let lo := deltaStep acc (b.toNat % 16)
    let hi := deltaStep lo (b.toNat / 16)
    lo :: hi :: deltaDecode hi bs

/-- DECODE.DPCM on a blob that can be read (rule R94). -/
def decodeDpcmBlob (m : Memory) (a len : Nat) (looped : Bool) : Sample :=
  sampleOf m a looped true (deltaDecode 0 (payload m a (len - sampleHeaderBytes)))

/-- A blob the decoder can read: at least a header long and wholly inside the bank (rule R95). -/
def blobReadable (pf : Platform) (a len : Nat) : Bool :=
  sampleHeaderBytes ≤ len && pf.contains a len

/-- The blob's `flags` word (rule R91). -/
def blobFlags (m : Memory) (a : Nat) : Word32 := BitVec.ofNat 32 (m.read32 a)

/-- `DECODE(a, len)`; `none` is `LoadError` (rules R90, R95, R254). -/
def decodeSample (pf : Platform) (a len : Nat) : Option Sample :=
  if blobReadable pf a len then
    let f := blobFlags pf.bank a
    if flagsCompressed f then some (decodeDpcmBlob pf.bank a len (flagsLooped f))
    else some (decodeRawBlob pf.bank a len (flagsLooped f))
  else none

/-- `sample(s)` of a voice record (rule R60): none if unresolved. -/
def sampleOfVoice (pf : Platform) (vo : Voice) : Option Sample :=
  if vo.sampleAddr = 0xFFFFFFFF then none
  else decodeSample pf vo.sampleAddr.toNat vo.sampleLen.toNat

/-- Deliver a decoder result; the decoder "writes no state" (rule R90). -/
def State.withDecResult (s : State) (r : Option Sample) : State := { s with decResult := r }

/-- DECODE.RAW (rules R90, R93, R95): operands are the blob's address and length; the result goes to the result
port. -/
def execDecodeRaw (looped : Bool) (s : State) : Host.Outcome State Fault Refusal :=
  .next (s.withDecResult
    (if blobReadable s.platform s.decAddr.toNat s.decLen.toNat then
      some (decodeRawBlob s.platform.bank s.decAddr.toNat s.decLen.toNat looped)
    else none))

/-- DECODE.DPCM (rules R90, R94, R95): as DECODE.RAW, with the delta payload. -/
def execDecodeDpcm (looped : Bool) (s : State) : Host.Outcome State Fault Refusal :=
  .next (s.withDecResult
    (if blobReadable s.platform s.decAddr.toNat s.decLen.toNat then
      some (decodeDpcmBlob s.platform.bank s.decAddr.toNat s.decLen.toNat looped)
    else none))

end Sys2Proof.Machine
end

