-- ==== Sys2Proof/Machine/Pitch.lean ====
section
/-! DEFINITION. The pitch tables (`42_pitch_tables.md`), the pitch update (`48_pitch_update.md`) and PBEND
(rule R106). -/

namespace Sys2Proof.Machine

/-- `v1`, `v2` of rule R133: the base entry of a scale byte, shifted right. -/
def scaleValue (p : Params) (key : Nat) : Int :=
  let e := (p.scaleTable.toList.getD key 0).toNat
  sar (baseFreq (e % 16)) (e / 16)

/-- The interpolation of rule R133 at a reduced key 0..130. -/
def blendReg (p : Params) (key : Nat) (fine : Int) : Int :=
  scaleValue p key + sar (fine * (scaleValue p (key + 1) - scaleValue p key)) 8 + 2048

/-- `midi_to_cgb_reg(key, fine)` (rule R133). -/
def midiToCgbReg (p : Params) (key fine : Int) : Int :=
  if key ≤ 35 then blendReg p 0 0
  else if 130 < key - 36 then blendReg p 130 255
  else blendReg p (key - 36).toNat fine

/-- `square_hz(reg)` (rule R134). -/
def squareHz (fp : Fp) (reg : Int) : Rat :=
  if 0 < 2048 - reg then fp.divQ squareClock ((2048 - reg : Int) : Rat) else squareClock

/-- `wave_hz(reg)` (rule R135). -/
def waveHz (fp : Fp) (reg : Int) : Rat :=
  if 0 < 2048 - reg then fp.divQ waveClock ((2048 - reg : Int) : Rat) else waveClock

/-- The clock rate of an NR43 byte (rules R83, R137). With `FP` a record of rounding functions `2^(shift + 1)` is the exact
integer power and not the record's `pow2`, a choice that rule R12 leaves open: DESIGN CHOICE
(notes/assumptions/30.md). -/
def nr43Hz (fp : Fp) (b : Byte) : Rat :=
  let shift := b.toNat / 16
  let ratio := b.toNat % 8
  let r : Rat := if ratio = 0 then 1 / 2 else (ratio : Rat)
  fp.divQ noiseClock (fp.mulQ r ((2 ^ (shift + 1) : Nat) : Rat))

/-- `noise_key_to_hz(key)` (rule R137). -/
def noiseKeyToHz (p : Params) (key : Int) : Rat :=
  nr43Hz p.fp (p.noiseTable.toList.getD (clampInt (key - 21) 0 59).toNat 0)

/-- `int_semi = floor(total / 256)` (rule R242). -/
def intSemi (fp : Fp) (total : Rat) : Int := fp.floorQ (fp.divQ total 256)

/-- `fine = floor(total - int_semi * 256)` (rule R242); the integer product is exact (notes/assumptions/30.md). -/
def fineOf (fp : Fp) (total : Rat) : Int := fp.floorQ (fp.subQ total ((intSemi fp total * 256 : Int) : Rat))

/-- The register of a key and an offset (rules R244, R245). -/
def cgbReg (p : Params) (key : Int) (total : Rat) : Int := midiToCgbReg p (key + intSemi p.fp total) (fineOf p.fp total)

/-- `midi_hz(k)` (rule R243): `REF_HZ * 2^((k - 69) / 12)`. -/
def midiHz (p : Params) (k : Int) : Pow2Sum :=
  p.fp.mul (.ofRat p.refHz) (p.fp.pow2 (p.fp.divQ ((k - 69 : Int) : Rat) 12))

/-- `ds_step(s, key, total)` (rule R243): `(target / base_hz) * (sample_rate_hz / sample_rate)` with
`target = midi_hz(key) * 2^(total / 256 / 12)`. -/
def dsStep (p : Params) (rate : Rat) (vo : Voice) (smp : Option Sample) (key : Int) (total : Rat) : Pow2Sum :=
  match smp with
  | none => .zero
  | some smp =>
    let target := p.fp.mul (midiHz p key) (p.fp.pow2 (p.fp.divQ (p.fp.divQ total 256) 12))
    p.fp.scale (p.fp.divQ (smp.sampleRateHz : Rat) rate) (p.fp.div target (midiHz p (vo.baseMidiKey.toNat : Int)))

/-- `square_inc(key, total)` (rule R244). -/
def squareInc (p : Params) (rate : Rat) (key : Int) (total : Rat) : Rat := 
  p.fp.divQ (squareHz p.fp (cgbReg p key total)) rate

/-- `wave_step(s, key, total)` (rule R245). -/
def waveStep (p : Params) (rate : Rat) (smp : Option Sample) (key : Int) (total : Rat) : Pow2Sum :=
  match smp with
  | none => .zero
  | some smp => .ofRat (p.fp.divQ (p.fp.mulQ (waveHz p.fp (cgbReg p key total)) (smp.numSamples : Rat)) rate)

/-- `noise_interval(key, total)` (rule R246). -/
def noiseIntervalOf (p : Params) (rate : Rat) (key : Int) (total : Rat) : Rat :=
  p.fp.divQ rate (noiseKeyToHz p (key + intSemi p.fp total))

/-- `configure(s, key, total)` (rule R249): write the one step field the kind uses. -/
def configure (pf : Platform) (rate : Rat) (key : Int) (total : Rat) (v : Slot) : Slot :=
  let vo := readVoice pf v.voiceRef
  match vo.kind with
  | .directSound => { v with sampleStep := dsStep pf.params rate vo (sampleOfVoice pf vo) key total }
  | .square1 | .square2 => { v with squarePhaseInc := squareInc pf.params rate key total }
  | .progWave => { v with sampleStep := waveStep pf.params rate (sampleOfVoice pf vo) key total }
  | .noise => { v with noiseInterval := noiseIntervalOf pf.params rate key total }
  | .empty | .keysplit | .keysplitAll => v

/-- The total offset in 1/256 semitones (rule R241); the integer products `fine_tune * 4` and `16 * mod_m` are exact
(notes/assumptions/30.md). -/
def totalOffset (fp : Fp) (m : ModState) (pitchBend : Rat) : Rat :=
  fp.addQ (fp.addQ (fp.mulQ pitchBend 256) ((m.fineTune.toInt * 4 : Int) : Rat))
    (if m.vibrato then ((16 * m.modM.toInt : Int) : Rat) else 0)

/-- `pitch_update(s)` (rules R240, R247), `m` the ModState of the slot's channel. -/
def pitchUpdate (pf : Platform) (rate : Rat) (m : ModState) (v : Slot) : Slot :=
  if v.isRhythm then v
  else configure pf rate (v.note.toNat : Int) (totalOffset pf.params.fp m v.pitchBend) v

/-- The bend a PBEND stores, an `f32` in the source (rules R12, R106): `(value / 8192) * range`. -/
def bendSemitones (fp : Fp) (bend : BitVec 16) (range : BitVec 32) : Rat :=
  fp.toF32Q (fp.mulQ (fp.divQ (bendOf bend : Rat) 8192) (range.toInt : Rat))

/-- PBEND's effect on one slot: the copy of the bend, then the pitch update (rule R106). -/
def bendSlot (pf : Platform) (rate : Rat) (c : Fin 16) (m : ModState) (semitones : Rat) (v : Slot) : Slot :=
  if v.active && v.channel = c then pitchUpdate pf rate m { v with pitchBend := semitones } else v

/-- PBEND on an existing channel (rule R106). -/
def bendChannel (rate : Rat) (c : Fin 16) (bend : BitVec 16) (s : State) : State :=
  let x := s.ch[c.val]
  let semitones := bendSemitones s.platform.params.fp bend x.pitchBendRange
  (s.setChannel c { x with pitchBendSemitones := semitones }).mapSlots
    (bendSlot s.platform rate c x.modState semitones)

/-- PBEND (rule R106): refused while there is no rate (rule R195), dropped for a channel above 15. -/
def execPbend (ch : Byte) (bend : BitVec 16) (s : State) : Host.Outcome State Fault Refusal :=
  match s.sampleRate with
  | none => .refused .rateNotSet
  | some rate =>
    match channelOf ch with
    | none => drop s
    | some c => .next (bendChannel rate c bend s)

end Sys2Proof.Machine
end

