-- ==== Sys2Proof/Machine/Envelope.lean ====
section
/-! DEFINITION. The two envelope generators (`47_envelopes.md`). -/

namespace Sys2Proof.Machine

/-- The move from CGB Attack to Decay at the peak (rule R212). -/
def cgbEnterDecay (vo : Voice) (v : Slot) : Slot :=
  { v with envelopeVolume := v.envelopeGoal, phase := .decay, envelopeCounter := (vo.decay.toNat : Int) }

/-- CGB Attack (rule R212). -/
def cgbAttack (vo : Voice) (v : Slot) : Slot :=
  if vo.attack = 0 then cgbEnterDecay vo v
  else if v.envelopeCounter - 1 ≤ 0 then
    (if v.envelopeGoal ≤ v.envelopeVolume + 1 then cgbEnterDecay vo v
     else { v with envelopeVolume := v.envelopeVolume + 1, envelopeCounter := (vo.attack.toNat : Int) })
  else { v with envelopeCounter := v.envelopeCounter - 1 }

/-- `leave_decay(s)` (rule R213). -/
def cgbLeaveDecay (vo : Voice) (v : Slot) : Slot :=
  if vo.sustain = 0 then goOff v else { v with envelopeVolume := v.sustainGoal, phase := .sustain }

/-- CGB Decay, with the reload of rule R219 (rule R213). -/
def cgbDecay (vo : Voice) (v : Slot) : Slot :=
  if vo.decay = 0 then cgbLeaveDecay vo v
  else if v.envelopeCounter - 1 ≤ 0 then
    (if v.envelopeVolume - 1 ≤ v.sustainGoal then
       cgbLeaveDecay vo
         { v with envelopeCounter := v.envelopeCounter - 1, envelopeVolume := v.envelopeVolume - 1 }
     else { v with envelopeVolume := v.envelopeVolume - 1, envelopeCounter := (vo.decay.toNat : Int) })
  else { v with envelopeCounter := v.envelopeCounter - 1 }

/-- CGB Sustain (rule R214). -/
def cgbSustain (v : Slot) : Slot := { v with envelopeVolume := v.sustainGoal }

/-- The CGB echo level (rules R215, R216). -/
def cgbEchoLevel (v : Slot) : Int := sar (v.envelopeGoal * (v.pseudoEchoVol.toNat : Int) + 0xFF) 8

/-- `end_release(s)` (rule R215), after `env <- 0`. -/
def cgbEndRelease (v : Slot) : Slot :=
  if 0 < cgbEchoLevel v then { v with envelopeVolume := cgbEchoLevel v, phase := .echo }
  else goOff { v with envelopeVolume := 0 }

/-- CGB Release, with the reload of rule R219 (rule R215). -/
def cgbRelease (vo : Voice) (v : Slot) : Slot :=
  if vo.release = 0 then cgbEndRelease v
  else if v.envelopeCounter - 1 ≤ 0 then
    (if v.envelopeVolume - 1 ≤ 0 then cgbEndRelease { v with envelopeCounter := v.envelopeCounter - 1 }
     else { v with envelopeVolume := v.envelopeVolume - 1, envelopeCounter := (vo.release.toNat : Int) })
  else { v with envelopeCounter := v.envelopeCounter - 1 }

/-- Echo, of either envelope (rules R217, R230). -/
def echoStep (v : Slot) : Slot :=
  if v.pseudoEchoLen - 1 ≤ 0 then goOff { v with pseudoEchoLen := v.pseudoEchoLen - 1 }
  else { v with pseudoEchoLen := v.pseudoEchoLen - 1 }

/-- DirectSound Attack (rule R226). -/
def dsAttack (vo : Voice) (v : Slot) : Slot :=
  if 255 ≤ v.envelopeVolume + (vo.attack.toNat : Int) then { v with envelopeVolume := 255, phase := .decay }
  else { v with envelopeVolume := v.envelopeVolume + (vo.attack.toNat : Int) }

/-- DirectSound Decay (rule R227). -/
def dsDecay (vo : Voice) (v : Slot) : Slot :=
  let env := sar (v.envelopeVolume * (vo.decay.toNat : Int)) 8
  if env ≤ (vo.sustain.toNat : Int) then
    (if vo.sustain = 0 then goOff { v with envelopeVolume := 0 }
     else { v with envelopeVolume := (vo.sustain.toNat : Int), phase := .sustain })
  else { v with envelopeVolume := env }

/-- DirectSound Release (rule R229). -/
def dsRelease (vo : Voice) (v : Slot) : Slot :=
  let env := sar (v.envelopeVolume * (vo.release.toNat : Int)) 8
  if env ≤ (v.pseudoEchoVol.toNat : Int) then
    (if v.pseudoEchoVol = 0 then goOff { v with envelopeVolume := env }
     else { v with envelopeVolume := (v.pseudoEchoVol.toNat : Int), phase := .echo })
  else { v with envelopeVolume := env }

/-- `envelope_step(s)` with the voice record `vo` (rule R210): one arm, chosen by the class and the phase. -/
def envelopeStep (vo : Voice) (v : Slot) : Slot :=
  if v.isCgbVoice then
    match v.phase with
    | .attack => cgbAttack vo v
    | .decay => cgbDecay vo v
    | .sustain => cgbSustain v
    | .release => cgbRelease vo v
    | .echo => echoStep v
    | .off => v
  else
    match v.phase with
    | .attack => dsAttack vo v
    | .decay => dsDecay vo v
    | .sustain => v
    | .release => dsRelease vo v
    | .echo => echoStep v
    | .off => v

end Sys2Proof.Machine
end

