-- ==== Sys2Proof/Machine/Lfo.lean ====
section
/-! DEFINITION. The per-channel LFO (`46_lfo.md`). -/

namespace Sys2Proof.Machine

/-- The wave of a phase counter (rule R204). -/
def lfoWave (cnt : Nat) : Int := if cnt < 64 then (cnt : Int) else 128 - (cnt : Int)

/-- The LFO output of a depth and a phase counter (rule R204). -/
def lfoOutput (mod : Byte) (cnt : Byte) : Byte := i8 (sar ((mod.toNat : Int) * lfoWave cnt.toNat) 6)

/-- The running arm: advance the phase, then compute the output (rules R203, R204). -/
def lfoRun (m : ModState) : ModState :=
  { m with lfoPhaseCounter := m.lfoPhaseCounter + m.lfoSpeed, modM := lfoOutput m.mod (m.lfoPhaseCounter + m.lfoSpeed) }

/-- `lfo_step(c)` on a channel's ModState (rule R205). -/
def lfoStep (m : ModState) : ModState :=
  if m.lfoSpeed = 0 ∨ m.mod = 0 then { m with modM := 0 }
  else if m.lfoDelayCountdown ≠ 0 then { m with lfoDelayCountdown := m.lfoDelayCountdown - 1 }
  else lfoRun m

/-- `lfo_step(c)` on a channel. -/
def lfoChannel (x : Channel) : Channel := { x with modState := lfoStep x.modState }

/-- `lfo_restart(ch)` (rule R121). -/
def lfoRestart (m : ModState) : ModState :=
  { m with lfoPhaseCounter := 0, lfoDelayCountdown := m.lfoDelay }

end Sys2Proof.Machine
end

