-- ==== Sys2Proof/Machine/Generators.lean ====
section
/-! DEFINITION. The four tone generators (`43_oscillators.md`) and the operations VOICE.* of the opcode table, each one
step of the generator a kind byte selects. -/

namespace Sys2Proof.Machine

/-- An i8 PCM entry divided by 128 (rules R146, R153). -/
def pcmLevel (fp : Fp) (b : Byte) : Rat := fp.divQ (b.toInt : Rat) 128

/-- `p0 + frac * (p1 - p0)` at position `pos`, between the entries `e0` and `e1` (rules R146, R153). -/
def interpolate (fp : Fp) (pos : Pow2Sum) (e0 e1 : Byte) : Pow2Sum :=
  fp.add (.ofRat (pcmLevel fp e0)) (fp.scale (fp.subQ (pcmLevel fp e1) (pcmLevel fp e0)) (fp.frac pos))

/-- The default of `DS_EDGE(sample, i)` (rule R147). -/
def dsEdgeStandard (smp : Sample) (i : Nat) : Byte :=
  if smp.isLooped && smp.loopStart < smp.numSamples then smp.pcm.getD smp.loopStart 0 else smp.pcm.getD i 0

/-- `DS_EDGE(sample, i)` (rules R6, R147). -/
def dsEdge (p : Params) (smp : Sample) (i : Nat) : Byte :=
  match p.dsEdge with
  | .standard => dsEdgeStandard smp i
  | .other k => Config.dsEdgeOther k smp i

/-- The DirectSound output at a position inside the sample (rule R146). -/
def dsRead (p : Params) (smp : Sample) (pos : Pow2Sum) : Pow2Sum :=
  let i := (p.fp.floor pos).toNat
  interpolate p.fp pos (smp.pcm.getD i 0) (if i + 1 < smp.numSamples then smp.pcm.getD (i + 1) 0 else dsEdge p smp i)

/-- The loop wrap of rule R148: `loop_start + ((p - loop_start) mod L)`. -/
def loopWrap (fp : Fp) (smp : Sample) (pos : Pow2Sum) : Pow2Sum :=
  fp.add (.ofRat smp.loopStart)
    (fp.modNat (fp.sub pos (.ofRat smp.loopStart)) (smp.numSamples - smp.loopStart))

/-- The DirectSound generator on an empty sample: it outputs 0 and the voice stays active (rules R146, R154). With
`Params.emptyEnds` it ends instead, the variant of decision D28 (notes/assumptions/16.md). -/
def oscEmpty (p : Params) (v : Slot) : Slot × Pow2Sum := (if p.emptyEnds then goOff v else v, .zero)

/-- The DirectSound generator (rules R146, R154): advance, test the end, then read. A position is at or past an integer
exactly when its floor is. -/
def oscDirectSound (p : Params) (smp : Option Sample) (v : Slot) : Slot × Pow2Sum :=
  match smp with
  | none => (v, .zero)
  | some smp =>
    if smp.numSamples = 0 then oscEmpty p v
    else
      let pos := p.fp.add v.samplePos v.sampleStep
      if (smp.numSamples : Int) ≤ pos.floor then
        if smp.isLooped && smp.loopStart < smp.numSamples then
          let wrapped := loopWrap p.fp smp pos
          ({ v with samplePos := wrapped }, dsRead p smp wrapped)
        else (goOff { v with samplePos := pos }, .zero)
      else ({ v with samplePos := pos }, dsRead p smp pos)

/-- The square generator (rule R149): output, then advance. -/
def oscSquare (fp : Fp) (duty : Byte) (v : Slot) : Slot × Pow2Sum :=
  ({ v with squarePhase := fp.addQ v.squarePhase v.squarePhaseInc },
    .ofRat (if fp.subQ v.squarePhase (fp.floorQ v.squarePhase) < dutyThreshold (min duty.toNat 3) then 1 / 2 else -1 / 2))

/-- The shift register after one clock (rule R152). -/
def clockRegister (width7 : Bool) (lfsr : BitVec 16) : BitVec 16 :=
  let bit := (lfsr ^^^ (lfsr >>> 1)) &&& 1
  let shifted := (lfsr >>> 1) ||| (bit <<< 14)
  if width7 then (shifted &&& ~~~0x0040#16) ||| (bit <<< 6) else shifted

/-- `clock_lfsr(s)` (rule R152). -/
def clockLfsr (polarity : Bool) (v : Slot) : Slot :=
  { v with
    lfsr := clockRegister v.noiseWidth7bit v.lfsr
    noiseOutput := noiseLevel polarity ((clockRegister v.noiseWidth7bit v.lfsr).getLsbD 0) }

/-- The loop of rule R150, for at most the given number of turns. -/
def noiseLoop (fp : Fp) (polarity : Bool) : Nat → Slot → Slot
  | 0, v => v
  | n + 1, v =>
    if v.noiseInterval ≤ v.noiseTimer then
      noiseLoop fp polarity n (clockLfsr polarity { v with noiseTimer := fp.subQ v.noiseTimer v.noiseInterval })
    else v

/-- How many turns the loop of rule R150 takes from a timer: in exact reals the number of whole intervals in it. -/
def noiseTurns (fp : Fp) (timer interval : Rat) : Nat :=
  match fp with
  | .exact => (timer / interval).floor.toNat
  | .rounded k => Config.fpLoopBound k

/-- The noise generator (rule R150). -/
def oscNoise (fp : Fp) (polarity : Bool) (v : Slot) : Slot × Pow2Sum :=
  let timer := fp.addQ v.noiseTimer 1
  let w := noiseLoop fp polarity (noiseTurns fp timer v.noiseInterval) { v with noiseTimer := timer }
  (w, .ofRat (pcmLevel fp w.noiseOutput))

/-- The programmable-wave generator (rules R153, R154): output, then advance. -/
def oscProgWave (fp : Fp) (smp : Option Sample) (v : Slot) : Slot × Pow2Sum :=
  match smp with
  | none => (v, .zero)
  | some smp =>
    if smp.numSamples = 0 then (v, .zero)
    else
      let pos := fp.modNat v.samplePos smp.numSamples
      let i := (fp.floor pos).toNat
      ({ v with samplePos := fp.add v.samplePos v.sampleStep },
        interpolate fp pos (smp.pcm.getD i 0) (smp.pcm.getD ((i + 1) % smp.numSamples) 0))

/-- `osc(s)` (rule R145): the generator of the slot's voice record. -/
def osc (pf : Platform) (v : Slot) : Slot × Pow2Sum :=
  let vo := readVoice pf v.voiceRef
  match vo.kind with
  | .directSound => oscDirectSound pf.params (sampleOfVoice pf vo) v
  | .square1 | .square2 => oscSquare pf.params.fp vo.param v
  | .noise => oscNoise pf.params.fp pf.params.noisePolarity v
  | .progWave => oscProgWave pf.params.fp (sampleOfVoice pf vo) v
  | .empty | .keysplit | .keysplitAll => (v, .zero)

/-- The voice record of the slot whose generator is stepped. -/
def State.genVoice (s : State) : Voice := readVoice s.platform (s.v[s.genSlot.val]).voiceRef

/-- Step a generator on slot `genSlot` and deliver its output. Only an active slot's generator is stepped (rules R145,
R187). -/
def stepGenerator (gen : Slot → Slot × Pow2Sum) (s : State) : State :=
  let v := s.v[s.genSlot.val]
  if v.active then { s.setSlot s.genSlot (gen v).1 with genOut := (gen v).2 } else s

/-- VOICE.EMPTY: there is no generator, nothing is written (rules R57, R161). -/
def execVoiceEmpty (s : State) : Host.Outcome State Fault Refusal := drop s

/-- VOICE.DIRECTSOUND: one step of the DirectSound generator (rule R146). -/
def execVoiceDirectsound (s : State) : Host.Outcome State Fault Refusal :=
  .next (stepGenerator (oscDirectSound s.platform.params (sampleOfVoice s.platform s.genVoice)) s)

/-- VOICE.SQUARE1: one step of the square generator (rule R149). -/
def execVoiceSquare1 (s : State) : Host.Outcome State Fault Refusal :=
  .next (stepGenerator (oscSquare s.platform.params.fp s.genVoice.param) s)

/-- VOICE.SQUARE2: one step of the square generator (rule R149). -/
def execVoiceSquare2 (s : State) : Host.Outcome State Fault Refusal :=
  .next (stepGenerator (oscSquare s.platform.params.fp s.genVoice.param) s)

/-- VOICE.PROGWAVE: one step of the programmable-wave generator (rule R153). -/
def execVoiceProgwave (s : State) : Host.Outcome State Fault Refusal :=
  .next (stepGenerator (oscProgWave s.platform.params.fp (sampleOfVoice s.platform s.genVoice)) s)

/-- VOICE.NOISE: one step of the noise generator (rule R150). -/
def execVoiceNoise (s : State) : Host.Outcome State Fault Refusal :=
  .next (stepGenerator (oscNoise s.platform.params.fp s.platform.params.noisePolarity) s)

/-- VOICE.KEYSPLIT: not a leaf; there is no generator, nothing is written (rules R57, R161). -/
def execVoiceKeysplit (s : State) : Host.Outcome State Fault Refusal := drop s

/-- VOICE.KEYSPLITALL: not a leaf; there is no generator, nothing is written (rules R57, R161). -/
def execVoiceKeysplitall (s : State) : Host.Outcome State Fault Refusal := drop s

end Sys2Proof.Machine
end

