-- ==== Sys2Proof/Machine/System.lean ====
section
/-! DEFINITION. RESET and SET_RATE (rules R101, R102). -/

namespace Sys2Proof.Machine

/-- The state RESET leaves (rules R101, R273): all slots Off, the counters 0, the channels at their defaults; the rate,
the slots' other fields and the inputs as they were. -/
def resetEngine (s : State) : State :=
  { s.mapSlots goOff with
    frameAcc := 0
    triggerCounter := 0
    ch := Vector.replicate 16 (Channel.resetValue s.platform.params.modstateReset) }

/-- RESET (rule R101). -/
def execReset (s : State) : Host.Outcome State Fault Refusal := .next (resetEngine s)

/-- The state with the rate `rate`. -/
def State.withRate (s : State) (rate : Rat) : State := { s with sampleRate := some rate }

/-- SET_RATE (rule R102): 0 is dropped; no slot and not `frame_acc` is written. -/
def execSetRate (rateHz : Word32) (s : State) : Host.Outcome State Fault Refusal :=
  if rateHz = 0 then drop s else .next (s.withRate (rateHz.toNat : Rat))

end Sys2Proof.Machine
end

