-- ==== Sys2Proof/Machine/Control.lean ====
section
/-! DEFINITION. The control changes (rules R108 to R121), and ALL_OFF (rule R105), which CC 123 performs. -/

namespace Sys2Proof.Machine

/-- The common part of a control change (rule R108): dropped for a channel above 15, else `f` on `CH[channel]`. -/
def controlChange (ch : Byte) (f : Channel → Channel) (s : State) : Host.Outcome State Fault Refusal :=
  match channelOf ch with
  | none => drop s
  | some c => .next (s.setChannel c (f s.ch[c.val]))

/-- Write a channel's ModState. -/
def onModState (f : ModState → ModState) (x : Channel) : Channel := { x with modState := f x.modState }

/-- CC 1 on a ModState (rule R109). -/
def setMod (value : BitVec 7) (m : ModState) : ModState :=
  if value = 0 then lfoRestart { m with mod := byteOf value } else { m with mod := byteOf value }

/-- CC 21 on a ModState (rule R113). -/
def setLfoSpeed (value : BitVec 7) (m : ModState) : ModState :=
  if value = 0 then lfoRestart { m with lfoSpeed := byteOf value } else { m with lfoSpeed := byteOf value }

/-- CC 29 on a ModState (rule R117). -/
def xcmd (value : BitVec 7) (m : ModState) : ModState :=
  if m.xcmdType = 8 then { m with pseudoEchoVol := byteOf value }
  else if m.xcmdType = 9 then { m with pseudoEchoLen := byteOf value }
  else m

/-- ALL_OFF on one slot (rule R105). -/
def killOn (ch : Byte) (v : Slot) : Slot := if v.channel.val = ch.toNat && v.active then goOff v else v

/-- Every active voice of a channel stops (rule R105). -/
def allNotesOff (ch : Byte) (s : State) : State := s.mapSlots (killOn ch)

/-- ALL_OFF (rule R105); a channel of 16 or more matches no slot. -/
def execAllOff (ch : Byte) (s : State) : Host.Outcome State Fault Refusal := .next (allNotesOff ch s)

/-- CC 1, MOD (rule R109). -/
def execCcMod (ch : Byte) (value : BitVec 7) (s : State) : Host.Outcome State Fault Refusal :=
  controlChange ch (onModState (setMod value)) s

/-- CC 6, pitch-bend range (rule R110). -/
def execCcBendr (ch : Byte) (value : BitVec 7) (s : State) : Host.Outcome State Fault Refusal :=
  controlChange ch (fun x => { x with pitchBendRange := value.setWidth 32 }) s

/-- CC 7, volume (rule R111). -/
def execCcVol (ch : Byte) (value : BitVec 7) (s : State) : Host.Outcome State Fault Refusal :=
  controlChange ch (fun x => { x with volume := ratioOf s.platform.params.fp value }) s

/-- CC 10, pan (rule R112). -/
def execCcPan (ch : Byte) (value : BitVec 7) (s : State) : Host.Outcome State Fault Refusal :=
  controlChange ch (fun x => { x with pan := ratioOf s.platform.params.fp value }) s

/-- CC 21, LFO speed (rule R113). -/
def execCcLfos (ch : Byte) (value : BitVec 7) (s : State) : Host.Outcome State Fault Refusal :=
  controlChange ch (onModState (setLfoSpeed value)) s

/-- CC 22, modulation type (rule R114). -/
def execCcModt (ch : Byte) (value : BitVec 7) (s : State) : Host.Outcome State Fault Refusal :=
  controlChange ch (onModState fun m => { m with modType := byteOf value }) s

/-- CC 24, fine tune: `i8(value - 64)` (rule R115). -/
def execCcTune (ch : Byte) (value : BitVec 7) (s : State) : Host.Outcome State Fault Refusal :=
  controlChange ch (onModState fun m => { m with fineTune := i8 ((value.toNat : Int) - 64) }) s

/-- CC 26, LFO delay (rule R116). -/
def execCcLfodl (ch : Byte) (value : BitVec 7) (s : State) : Host.Outcome State Fault Refusal :=
  controlChange ch
    (onModState fun m => { m with lfoDelay := byteOf value, lfoDelayCountdown := byteOf value }) s

/-- CC 29, XCMD (rule R117). -/
def execCcXcmd (ch : Byte) (value : BitVec 7) (s : State) : Host.Outcome State Fault Refusal :=
  controlChange ch (onModState (xcmd value)) s

/-- CC 30, XCMDTYPE (rule R118). -/
def execCcXcmdtype (ch : Byte) (value : BitVec 7) (s : State) : Host.Outcome State Fault Refusal :=
  controlChange ch (onModState fun m => { m with xcmdType := byteOf value }) s

/-- CC 123, all notes off (rule R119): the channel test of rule R108, then ALL_OFF; `value` is ignored. -/
def execCcAlloff (ch : Byte) (_value : BitVec 7) (s : State) : Host.Outcome State Fault Refusal :=
  match channelOf ch with
  | none => drop s
  | some _ => .next (allNotesOff ch s)

/-- Any other controller is ignored (rule R120). -/
def execCcOther (_ch : Byte) (_controller _value : BitVec 7) (s : State) : Host.Outcome State Fault Refusal :=
  drop s

end Sys2Proof.Machine
end

