-- ==== Sys2Proof/Machine/Notes.lean ====
section
/-! DEFINITION. NOTE_OFF (rule R104), NOTE_ON and the voice allocator (`44_note_on_allocator.md`). -/

namespace Sys2Proof.Machine

/-- NOTE_OFF on one slot (rule R104). -/
def releaseNote (pf : Platform) (ch : Byte) (note : BitVec 7) (v : Slot) : Slot :=
  if v.sounds ch note && v.phase.held then
    (if v.isCgbVoice then
       { v with phase := .release, envelopeCounter := ((readVoice pf v.voiceRef).release.toNat : Int) }
     else { v with phase := .release })
  else v

/-- NOTE_OFF (rule R104); a channel of 16 or more matches no slot. -/
def execNoteOff (ch : Byte) (note : BitVec 7) (s : State) : Host.Outcome State Fault Refusal :=
  .next (s.mapSlots (releaseNote s.platform ch note))

/-- Step 2, retire (rule R162). -/
def retireNote (ch : Byte) (note : BitVec 7) (v : Slot) : Slot := if v.sounds ch note then goOff v else v

/-- One step of the allocator's walk: keep the candidate unless slot `i` is one with a strictly lower key
(rule R173). -/
def betterSlot (pool : Vector Slot 24) (cand : Slot → Bool) (key : Slot → Int) (best : Option (Fin 24))
    (i : Fin 24) : Option (Fin 24) :=
  if cand pool[i.val] then
    match best with
    | none => some i
    | some b => if key pool[i.val] < key pool[b.val] then some i else some b
  else best

/-- The candidate with the lowest key; among equals, the lowest-numbered (rule R173). -/
def lowestSlot (pool : Vector Slot 24) (cand : Slot → Bool) (key : Slot → Int) : Option (Fin 24) :=
  (List.finRange 24).foldl (betterSlot pool cand key) none

/-- `steal()` (rules R163, R172, R173): the five arms in order. The fifth always finds a slot. -/
def steal (pool : Vector Slot 24) : Fin 24 :=
  ((lowestSlot pool (fun v => !v.active) (fun _ => 0)).or
    ((lowestSlot pool (fun v => v.active && v.phase = .echo) Slot.envelopeVolume).or
      ((lowestSlot pool (fun v => v.active && v.phase = .release) Slot.envelopeVolume).or
        ((lowestSlot pool (fun v => v.active && !(v.phase = .attack)) Slot.envelopeVolume).or
          (lowestSlot pool (fun _ => true) (fun v => (v.triggerOrder.toNat : Int))))))).getD 0

/-- Step 4a, identity, class and channel copies (rule R165); `order` is the incremented counter. -/
def startIdentity (isRhythm : Bool) (c : Fin 16) (note velocity : BitVec 7) (ref : Word32) (order : BitVec 64)
    (x : Channel) (vo : Voice) (v : Slot) : Slot :=
  { v with
    active := true
    channel := c
    note := note
    velocity := velocity
    voiceRef := ref
    isRhythm := isRhythm
    triggerOrder := order
    pitchBend := x.pitchBendSemitones
    pseudoEchoVol := x.modState.pseudoEchoVol
    pseudoEchoLen := (x.modState.pseudoEchoLen.toNat : Int)
    isCgbVoice := kindIsCgb vo.kind }

/-- The pan position of a voice: 0 is centre, else `pan / 127` (rule R166). -/
def voicePan (fp : Fp) (vo : Voice) : Rat := if vo.pan = 0 then 1 / 2 else fp.divQ (vo.pan.toInt : Rat) 127

/-- Step 4b, pan (rule R166). -/
def startPan (fp : Fp) (x : Channel) (vo : Voice) (v : Slot) : Slot :=
  { v with pan := fp.divQ (fp.addQ (voicePan fp vo) x.pan) 2 }

/-- Step 5, envelope start (rule R167). -/
def startEnvelope (vo : Voice) (v : Slot) : Slot :=
  if v.isCgbVoice then
    (if vo.attack = 0 then
       { v with
         envelopeGoal := 15, sustainGoal := sar (15 * (vo.sustain.toNat : Int) + 15) 4
         phase := .decay, envelopeVolume := 15, envelopeCounter := (vo.decay.toNat : Int) }
     else
       { v with
         envelopeGoal := 15, sustainGoal := sar (15 * (vo.sustain.toNat : Int) + 15) 4
         phase := .attack, envelopeVolume := 0, envelopeCounter := (vo.attack.toNat : Int) })
  else
    { v with
      envelopeGoal := 15, sustainGoal := 0, envelopeCounter := 0, phase := .attack, envelopeVolume := 0 }

/-- `LFSR_SEED(width7)` (rules R6, R168). -/
def lfsrSeed (p : Params) (width7 : Bool) : BitVec 16 := if width7 then p.lfsrSeed7 else p.lfsrSeed15

/-- Step 7a, oscillator start values (rule R168). -/
def startOscillator (p : Params) (vo : Voice) (v : Slot) : Slot :=
  let width7 := vo.kind = .noise && !(vo.param = 0)
  { v with
    samplePos := .zero
    squarePhase := 0
    noiseTimer := 0
    noiseWidth7bit := width7
    lfsr := lfsrSeed p width7
    noiseOutput := noiseLevel p.noisePolarity ((lfsrSeed p width7).getLsbD 0) }

/-- Steps 6 and 7b, tuning key and oscillator steps (rule R169); the step fields of other kinds are written 0
(rules R169, R249). -/
def startTuning (pf : Platform) (rate : Rat) (vo : Voice) (v : Slot) : Slot :=
  configure pf rate (if v.isRhythm then (vo.baseMidiKey.toNat : Int) else (v.note.toNat : Int)) 0
    { v with sampleStep := .zero, squarePhaseInc := 0, noiseInterval := 0 }

/-- Step 8, the immediate envelope step (rule R170). -/
def immediateStep (vo : Voice) (v : Slot) : Slot := if v.phase = .attack then envelopeStep vo v else v

/-- The slot of a new note: steps 4 to 8 (rule R171). -/
def startVoice (pf : Platform) (rate : Rat) (isRhythm : Bool) (c : Fin 16) (note velocity : BitVec 7) (ref : Word32)
    (order : BitVec 64) (x : Channel) (vo : Voice) (v : Slot) : Slot :=
  immediateStep vo (startTuning pf rate vo (startOscillator pf.params vo (startEnvelope vo (startPan pf.params.fp x vo
    (startIdentity isRhythm c note velocity ref order x vo v)))))

/-- The state with the trigger counter `n`. -/
def State.withTriggerCounter (s : State) (n : BitVec 64) : State := { s with triggerCounter := n }

/-- Steps 2 to 8 of NOTE_ON on an existing channel with an accepted voice record (rule R171). -/
def startNote (rate : Rat) (isRhythm : Bool) (c : Fin 16) (ch : Byte) (note velocity : BitVec 7) (ref : Word32)
    (vo : Voice) (s : State) : State :=
  let retired := mapVec (retireNote ch note) s.v
  let i := steal retired
  let order := s.triggerCounter + 1
  ((s.withSlots retired).setSlot i
    (startVoice s.platform rate isRhythm c note velocity ref order s.ch[c.val] vo retired[i.val])).withTriggerCounter
      order

/-- NOTE_ON (rules R160 to R171): refused while there is no rate (rule R195); dropped for a channel above 15 or a
record that is no leaf (rule R161); refused for a record outside the ranges of rule R59 (item U5). -/
def execNoteOn (isRhythm : Bool) (ch : Byte) (note velocity : BitVec 7) (voiceRef : Word32) (s : State) :
    Host.Outcome State Fault Refusal :=
  match s.sampleRate with
  | none => .refused .rateNotSet
  | some rate =>
    match channelOf ch with
    | none => drop s
    | some c =>
      let vo := readVoice s.platform voiceRef
      if kindSounds vo.kind then
        (if vo.wellFormed then .next (startNote rate isRhythm c ch note velocity voiceRef vo s)
         else .refused .malformedVoice)
      else drop s

end Sys2Proof.Machine
end

