-- ==== Sys2Proof/Machine/Render.lean ====
section
/-! DEFINITION. RENDER, the two timebases and the mix (`45_render.md`). -/

namespace Sys2Proof.Machine

/-- `SAMPLES_PER_GBA_FRAME` (rule R183). -/
def samplesPerGbaFrame (fp : Fp) (rate : Rat) : Rat := fp.divQ rate gbaFrameHz

/-- The frame tick on one slot (rule R185): the envelope step, then the pitch update if the voice still sounds, its
channel is in vibrato and `mod_m` changed. `before` is the channel file at the start of the tick (`mod_m_prev`), `after`
the one its LFO steps left. -/
def tickSlot (pf : Platform) (rate : Rat) (before after : Vector Channel 16) (v : Slot) : Slot :=
  if v.active then
    let w := envelopeStep (readVoice pf v.voiceRef) v
    let m := after[w.channel.val].modState
    if w.active && m.vibrato && !(m.modM = before[w.channel.val].modState.modM) then pitchUpdate pf rate m w
    else w
  else v

/-- `frame_tick()` (rule R185): all sixteen LFOs, then the active slots. -/
def frameTick (rate : Rat) (s : State) : State :=
  let after := mapVec lfoChannel s.ch
  (s.withChannels after).withSlots (mapVec (tickSlot s.platform rate s.ch after) s.v)

/-- The state with the frame accumulator `x`. -/
def State.withFrameAcc (s : State) (x : Rat) : State := { s with frameAcc := x }

/-- `sample_tick()` (rule R184): at most one frame tick. -/
def sampleTick (rate : Rat) (s : State) : State :=
  let fp := s.platform.params.fp
  let acc := fp.addQ s.frameAcc 1
  if samplesPerGbaFrame fp rate ≤ acc then
    frameTick rate (s.withFrameAcc (fp.subQ acc (samplesPerGbaFrame fp rate)))
  else s.withFrameAcc acc

/-- `gain(s, x)` of the generator's output `out` (rules R188, R189). -/
def voiceGain (fp : Fp) (x : Channel) (v : Slot) (out : Pow2Sum) : Pow2Sum :=
  let g := fp.scale (fp.divQ (v.velocity.toNat : Rat) 127)
    (fp.scale (fp.divQ (v.envelopeVolume : Rat) (v.envMax : Rat)) out)
  let g := if x.modState.tremolo then fp.scale (fp.divQ ((x.modState.modM.toInt + 128 : Int) : Rat) 128) g else g
  fp.scale x.volume g

/-- The pan position of a voice in this frame (rule R190): the stored one, moved by `mod_m / 256` in auto-pan. -/
def panPosition (fp : Fp) (x : Channel) (v : Slot) : Rat :=
  if x.modState.autoPan then
    clampRat (fp.addQ (fp.basePan v.pan) (fp.divQ (x.modState.modM.toInt : Rat) 256)) 0 1
  else v.pan

/-- What one voice adds to a frame: to the left `g * cos(p * pi / 2)`, to the right
`g * sin(p * pi / 2) = g * cos((1 - p) * pi / 2)` (rules R187, R190, R191). -/
structure Contribution where
  gain : Pow2Sum
  pan : Rat
deriving DecidableEq, Repr

/-- `mix_voice(s, f)` (rule R187) on a slot: its state after the generator's step, and what it adds to the frame. -/
def mixVoice (pf : Platform) (chs : Vector Channel 16) (v : Slot) : Slot × List Contribution :=
  if v.active then
    let x := chs[v.channel.val]
    let o := osc pf v
    (o.1, [⟨voiceGain pf.params.fp x v o.2, panPosition pf.params.fp x v⟩])
  else (v, [])

/-- One contribution on the left, after the master gain (rules R191, R192). -/
def leftTerm (k : Contribution) : AudioTerm := ⟨k.gain.scale masterGain, k.pan⟩

/-- One contribution on the right, after the master gain (rules R191, R192). -/
def rightTerm (k : Contribution) : AudioTerm := ⟨k.gain.scale masterGain, 1 - k.pan⟩

/-- One side of a frame with record `k`: the contributions, each times its gain, accumulated in slot order, scaled by the
master gain, clipped and delivered as an `f32` (rules R182, R191, R192). -/
def roundedSide (k : Nat) (side : Rat → Rat) (ks : List Contribution) : Level :=
  let fp := Fp.rounded k
  let sum := ks.foldl (fun acc c => fp.addQ acc (Config.fpMul k c.gain (.ofRat (side c.pan)))) 0
  .rounded (fp.toF32Q (clampRat (fp.mulQ sum masterGain) (-1) 1))

/-- The output frame of the accumulated contributions, in slot order: scaled by the master gain and clipped
(rules R191, R192). -/
def masterFrame (fp : Fp) (ks : List Contribution) : Frame :=
  match fp with
  | .exact => ⟨.clip (ks.map leftTerm), .clip (ks.map rightTerm)⟩
  | .rounded k => ⟨roundedSide k (roundedCos k) ks, roundedSide k (roundedSin k) ks⟩

/-- The mix of one output frame (rules R187, R193). -/
def mixFrame (s : State) : State × Frame :=
  let mixed := mapVec (mixVoice s.platform s.ch) s.v
  (s.withSlots (mapVec (fun m => m.1) mixed), masterFrame s.platform.params.fp (mixed.toList.flatMap (fun m => m.2)))

/-- One output frame (rules R180, R193): the sample tick, then the mix. -/
def renderFrame (rate : Rat) (s : State) : State × Frame := mixFrame (sampleTick rate s)

/-- `n` output frames, in index order (rule R180). -/
def renderFrames (rate : Rat) : Nat → State → State × List Frame
  | 0, s => (s, [])
  | n + 1, s =>
    let one := renderFrame rate s
    let rest := renderFrames rate n one.1
    (rest.1, one.2 :: rest.2)

/-- Append frames to the audio port (rules R13, R182). -/
def State.emit (s : State) (fs : List Frame) : State := { s with audio := s.audio ++ fs }

/-- The state RENDER leaves (rule R180): the frames become visible when the command ends (rule R182). -/
def renderState (rate : Rat) (n : Nat) (s : State) : State :=
  (renderFrames rate n s).1.emit (renderFrames rate n s).2

/-- RENDER (rule R180): refused while there is no rate (rule R195). -/
def execRender (n : Word32) (s : State) : Host.Outcome State Fault Refusal :=
  match s.sampleRate with
  | none => .refused .rateNotSet
  | some rate => .next (renderState rate n.toNat s)

end Sys2Proof.Machine
end

