-- ==== Sys2Proof/Machine/Dispatch.lean ====
section
/-! DEFINITION. The dispatch of rule R100: one arm per operation. -/

namespace Sys2Proof.Machine

def exec (i : Instr) (s : State) : Host.Outcome State Fault Refusal :=
  match i with
  | .reset => Sys2Proof.Machine.execReset s
  | .setRate rateHz => Sys2Proof.Machine.execSetRate rateHz s
  | .noteOn isRhythm ch note velocity voiceRef => Sys2Proof.Machine.execNoteOn isRhythm ch note velocity voiceRef s
  | .noteOff ch note => Sys2Proof.Machine.execNoteOff ch note s
  | .allOff ch => Sys2Proof.Machine.execAllOff ch s
  | .ccMod ch value => Sys2Proof.Machine.execCcMod ch value s
  | .ccBendr ch value => Sys2Proof.Machine.execCcBendr ch value s
  | .ccVol ch value => Sys2Proof.Machine.execCcVol ch value s
  | .ccPan ch value => Sys2Proof.Machine.execCcPan ch value s
  | .ccLfos ch value => Sys2Proof.Machine.execCcLfos ch value s
  | .ccModt ch value => Sys2Proof.Machine.execCcModt ch value s
  | .ccTune ch value => Sys2Proof.Machine.execCcTune ch value s
  | .ccLfodl ch value => Sys2Proof.Machine.execCcLfodl ch value s
  | .ccXcmd ch value => Sys2Proof.Machine.execCcXcmd ch value s
  | .ccXcmdtype ch value => Sys2Proof.Machine.execCcXcmdtype ch value s
  | .ccAlloff ch value => Sys2Proof.Machine.execCcAlloff ch value s
  | .ccOther ch controller value => Sys2Proof.Machine.execCcOther ch controller value s
  | .pbend ch bend => Sys2Proof.Machine.execPbend ch bend s
  | .render n => Sys2Proof.Machine.execRender n s
  | .decodeRaw looped => Sys2Proof.Machine.execDecodeRaw looped s
  | .decodeDpcm looped => Sys2Proof.Machine.execDecodeDpcm looped s
  | .voiceEmpty => Sys2Proof.Machine.execVoiceEmpty s
  | .voiceDirectsound => Sys2Proof.Machine.execVoiceDirectsound s
  | .voiceSquare1 => Sys2Proof.Machine.execVoiceSquare1 s
  | .voiceSquare2 => Sys2Proof.Machine.execVoiceSquare2 s
  | .voiceProgwave => Sys2Proof.Machine.execVoiceProgwave s
  | .voiceNoise => Sys2Proof.Machine.execVoiceNoise s
  | .voiceKeysplit => Sys2Proof.Machine.execVoiceKeysplit s
  | .voiceKeysplitall => Sys2Proof.Machine.execVoiceKeysplitall s

end Sys2Proof.Machine
end

