-- ==== Sys2Proof/Machine/Fetch.lean ====
section
/-! DEFINITION. What the engine takes next: a command word admitted by the lock (rules R62, R63), or the selector in
bank memory of an internal operation asked for by itself. -/

namespace Sys2Proof.Machine

/-- A code to decode, and the state once it is taken. -/
structure Fetched where
  code : Code
  state : State
deriving DecidableEq, Repr

/-- Take the oldest host command, and the lock with it (rules R25, R62). -/
def takeHost (w : Word64) (rest : List Word64) (s : State) : Fetched :=
  ⟨.command w, { s with hostQueue := rest, lock := .host }⟩

/-- Take the oldest audio command, and the lock with it (rules R25, R62). -/
def takeAudio (w : Word64) (rest : List Word64) (s : State) : Fetched :=
  ⟨.command w, { s with audioQueue := rest, lock := .audio }⟩

/-- Admission of a command while the lock is `Free` (rule R63): each agent's commands in its own order; when both
wait, a free choice. None if no command waits. -/
def admission (s : State) : Option Fetched :=
  match s.hostQueue, s.audioQueue with
  | [], [] => none
  | w :: rest, [] => some (takeHost w rest s)
  | [], w :: rest => some (takeAudio w rest s)
  | w :: rest, u :: rest' =>
    if Config.grantHost s.arbitrations then some (takeHost w rest { s with arbitrations := s.arbitrations + 1 })
    else some (takeAudio u rest' { s with arbitrations := s.arbitrations + 1 })

/-- The flags word of the blob whose decoding is asked for (rules R82, R91). -/
def takeFlags (s : State) : Fetched :=
  ⟨.flags (blobFlags s.platform.bank s.decAddr.toNat), { s with request := none }⟩

/-- The kind byte of the voice record of slot `genSlot`; a record not wholly inside the bank "reads as an Empty voice"
(rules R54, R57). -/
def takeKind (s : State) : Fetched :=
  let ref := (s.v[s.genSlot.val]).voiceRef
  ⟨.kind (if s.platform.contains ref.toNat 16 then s.platform.bank.read ref.toNat else 0),
    { s with request := none }⟩

/-- The next code, if there is one. While the lock is held nothing else is admitted (rule R62). -/
def fetch (s : State) : Option Fetched :=
  match s.lock with
  | .free =>
    match s.request with
    | some .decode => some (takeFlags s)
    | some .generator => some (takeKind s)
    | none => admission s
  | .host | .audio => none

/-- Release the lock at the end of a command (rules R25, R62). -/
def releaseLock (s : State) : State := { s with lock := .free }

/-- The end of an operation: the lock is released. -/
def finish : Host.Outcome State Fault Refusal → Host.Outcome State Fault Refusal
  | .next s => .next (releaseLock s)
  | .fault r => .fault r
  | .refused r => .refused r

/-- Run a fetched code to its end (rules R80, R81, R100): a code that stands for no operation is dropped. -/
def runCode (f : Fetched) : Host.Outcome State Fault Refusal :=
  match decode f.code with
  | .ok i => finish (exec i f.state)
  | .error _ => finish (drop f.state)

/-- The little-endian bytes of a flags word (rule R51). -/
def flagsBytes (f : Word32) : List Byte :=
  [f.extractLsb' 0 8, f.extractLsb' 8 8, f.extractLsb' 16 8, f.extractLsb' 24 8]

/-- The platform with bytes stored in the bank, and a bank of at least `a + 16` bytes. -/
def Platform.publish (pf : Platform) (a : Nat) (bs : List Byte) : Platform :=
  ⟨pf.bank.writeBytes a bs, { pf.params with bankSize := max pf.params.bankSize (a + 16) }⟩

/-- Put a code where the next fetch finds it. A command word is the one command that waits. A flags word is stored at
bank address 0, as the header of a 16-byte blob whose decoding is asked for. A kind byte is stored at bank address 0, as
the record of slot 0, made active, whose generator is asked for. -/
def placeCode (s : State) : Code → State
  | .command w => { s with lock := .free, request := none, hostQueue := [w], audioQueue := [] }
  | .flags f =>
    { s with
      lock := .free, request := some .decode, decAddr := 0, decLen := 16
      platform := s.platform.publish 0 (flagsBytes f) }
  | .kind b =>
    { s.setSlot 0 { s.v[0] with active := true, phase := .sustain, voiceRef := 0 } with
      lock := .free, request := some .generator, genSlot := 0
      platform := s.platform.publish 0 [b] }

end Sys2Proof.Machine
end

