-- ==== Sys2Proof/Machine/Step.lean ====
section
/-! DEFINITION. The step: "accept one command word and run its rule to the end" (decision D2). -/

namespace Sys2Proof.Machine

/-- One step. With nothing to take, "the engine does nothing and keeps all state" (rule R269). -/
def step (s : State) : Host.Outcome State Fault Refusal :=
  match fetch s with
  | none => .next s
  | some f => runCode f

/-- `s` with an opcode-table word where `step` fetches its next operation. -/
def State.withFetchWord (s : State) (nbits w : Nat) : State :=
  match codeOfBits nbits w with
  | some code => placeCode s code
  | none => s

end Sys2Proof.Machine
end

