-- ==== Sys2Proof/Safety.lean ====
section
/-! DEFINITION. What the model's data stands for as real numbers (rule R12), and the invariants of the engine
(rule R33), in the terms the statements use. -/

namespace Sys2Proof

/-- The real number of a term. -/
noncomputable def Pow2Term.toReal (t : Pow2Term) : ℝ := (t.coef : ℝ) * (2 : ℝ) ^ (t.exp : ℝ)

/-- The real number of an exact real. -/
noncomputable def Pow2Sum.toReal (x : Pow2Sum) : ℝ := (x.terms.map Pow2Term.toReal).sum

/-- Canonical terms: exponents in `[0, 1)`, strictly rising, no coefficient 0. -/
def Pow2Sum.canonical (x : Pow2Sum) : Prop :=
  x.terms.Pairwise (fun t u => t.exp < u.exp) ∧ ∀ t ∈ x.terms, 0 ≤ t.exp ∧ t.exp < 1 ∧ t.coef ≠ 0

namespace Machine

/-- The real number of one contribution: `gain * cos(quarter * pi / 2)`. -/
noncomputable def AudioTerm.toReal (t : AudioTerm) : ℝ :=
  t.gain.toReal * Real.cos ((t.quarter : ℝ) * Real.pi / 2)

/-- The real number of a sample of the audio port: the sum, hard-clipped to [-1, +1] (rule R192); or the number a record
of rounding functions gave. -/
noncomputable def Level.toReal : Level → ℝ
  | .rounded x => (x : ℝ)
  | .clip terms => min (max ((terms.map AudioTerm.toReal).sum) (-1)) 1

/-- `pan_l` in exact reals (rules R31, R166). -/
noncomputable def Slot.panL (v : Slot) : ℝ := Real.cos ((v.pan : ℝ) * Real.pi / 2)

/-- `pan_r` in exact reals (rules R31, R166). -/
noncomputable def Slot.panR (v : Slot) : ℝ := Real.sin ((v.pan : ℝ) * Real.pi / 2)

/-- Rule R33 (b): `active = false` exactly when `phase = Off`. -/
def Slot.offIffInactive (v : Slot) : Prop := v.active = false ↔ v.phase = .off

/-- Every slot of the pool is inactive exactly when it is Off (rule R33 (b)). -/
def State.poolConsistent (s : State) : Prop := ∀ i : Fin 24, (s.v[i.val]).offIffInactive

/-- Rule R33 (c): the envelope volume of an active slot is in 0..15 (CGB) or 0..255 (DirectSound); a CGB slot's goals
are `envelope_goal = 15` and `sustain_goal` in 0..15 (rules R29, R167). -/
def Slot.envelopeInRange (v : Slot) : Prop :=
  v.active = true →
    if v.isCgbVoice then
      0 ≤ v.envelopeVolume ∧ v.envelopeVolume ≤ 15 ∧ v.envelopeGoal = 15 ∧ 0 ≤ v.sustainGoal ∧ v.sustainGoal ≤ 15
    else 0 ≤ v.envelopeVolume ∧ v.envelopeVolume ≤ 255

/-- The envelope volume of every active slot is in its range (rule R33 (c)). -/
def State.envelopesInRange (s : State) : Prop := ∀ i : Fin 24, (s.v[i.val]).envelopeInRange

/-- Rule R34: every active slot's bend is its channel's. -/
def State.bendsAgree (s : State) : Prop :=
  ∀ i : Fin 24, (s.v[i.val]).active = true →
    (s.v[i.val]).pitchBend = (s.ch[(s.v[i.val]).channel.val]).pitchBendSemitones

/-- Rules R22, R23: the rate, where there is one, is greater than 0, and the frame accumulator is not negative. -/
def State.clocksLegal (s : State) : Prop := (∀ r, s.sampleRate = some r → 0 < r) ∧ 0 ≤ s.frameAcc

/-- Rule R26: the volume and the pan of every channel, and the pan position of every slot, are in 0..1. -/
def State.mixLegal (s : State) : Prop :=
  (∀ c : Fin 16, 0 ≤ (s.ch[c.val]).volume ∧ (s.ch[c.val]).volume ≤ 1 ∧ 0 ≤ (s.ch[c.val]).pan ∧ (s.ch[c.val]).pan ≤ 1) ∧
    ∀ i : Fin 24, 0 ≤ (s.v[i.val]).pan ∧ (s.v[i.val]).pan ≤ 1

/-- The slot runs one of the four generators, and its class is that of its voice record (rules R36, R57, R145). A noise
slot's interval is greater than 0 (rule R30). -/
def Slot.generatorLegal (pf : Platform) (v : Slot) : Prop :=
  v.active = true →
    kindSounds (readVoice pf v.voiceRef).kind = true ∧ v.isCgbVoice = kindIsCgb (readVoice pf v.voiceRef).kind ∧
      ((readVoice pf v.voiceRef).kind = .noise → 0 < v.noiseInterval)

/-- Every active slot runs a legal generator. -/
def State.generatorsLegal (s : State) : Prop := ∀ i : Fin 24, (s.v[i.val]).generatorLegal s.platform

/-- The parameters are in the ranges rules R6, R50, R83 give them: seeds not 0, `REF_HZ` greater than 0, at most 2^32
bytes of bank, every index of `SCALE_TABLE` inside `BASE_FREQ_TABLE`. -/
def Params.legal (p : Params) : Prop :=
  p.lfsrSeed15 ≠ 0 ∧ p.lfsrSeed7 ≠ 0 ∧ 0 < p.refHz ∧ p.bankSize ≤ 2 ^ 32 ∧ ∀ e ∈ p.scaleTable.toList, e.toNat % 16 ≤ 11

/-- `w` is the slot `v` with the one step its kind uses written for the tuning key `key` and the total offset `total`, in
exact reals: what `configure(s, key, total)` leaves (rules R242 to R246, R249). `semi` is `int_semi` and `reg` the register
value of rules R244 and R245. -/
def Slot.retuned (pf : Platform) (rate : Rat) (key : Int) (total : Rat) (v w : Slot) : Prop :=
  let vo := readVoice pf v.voiceRef
  let semi : Int := ⌊total / 256⌋
  let reg : Int := midiToCgbReg pf.params (key + semi) ⌊total - 256 * (semi : Rat)⌋
  match vo.kind with
  | .directSound =>
    ∃ step : Pow2Sum, w = { v with sampleStep := step } ∧ (sampleOfVoice pf vo = none → step = .zero) ∧
      ∀ smp, sampleOfVoice pf vo = some smp →
        step.toReal =
          (2 : ℝ) ^ (((key : ℝ) - (vo.baseMidiKey.toNat : ℝ)) / 12 + (total : ℝ) / 3072)
            * (smp.sampleRateHz : ℝ) / (rate : ℝ)
  | .square1 | .square2 =>
    w = { v with squarePhaseInc := (if reg < 2048 then 131072 / (2048 - (reg : Rat)) else 131072) / rate }
  | .progWave =>
    ∃ step : Pow2Sum, w = { v with sampleStep := step } ∧ (sampleOfVoice pf vo = none → step = .zero) ∧
      ∀ smp, sampleOfVoice pf vo = some smp →
        step = .ofRat ((if reg < 2048 then 65536 / (2048 - (reg : Rat)) else 65536) * (smp.numSamples : Rat) / rate)
  | .noise => w = { v with noiseInterval := rate / noiseKeyToHz pf.params (key + semi) }
  | .empty | .keysplit | .keysplitAll => w = v

/-- The number of active slots (rule R33 (a)). -/
def State.activeCount (s : State) : Nat := (s.v.toList.filter (fun v => v.active)).length

end Machine

end Sys2Proof
end

