-- ==== Sys2Proof/Certificates/Slice0/Obligations.lean ====
section
/-! DEFINITION. The statements about the model, each a proposition with a name that says what it states. -/

open Sys2Proof Sys2Proof.Machine

/-! ## Encoding -/

/-- Decoding the encoding of a well-formed instruction gives the instruction back, every operand at every value its
field admits (rules R70 to R72, R78, R79; R57, R82 for the selectors in bank memory). -/
def Obligations.DecodeOfEncodeIsTheInstruction : Prop :=
  ∀ i : Instr, i.wellFormed = true → decode (encode i) = .ok i

/-- A command word that decodes is the encoding of what it decodes to: no two words mean one instruction, and no bit of
an accepted word is ignored (rules R70, R72, R78). -/
def Obligations.AcceptedWordIsTheEncoding : Prop :=
  ∀ (c : Word64) (i : Instr), decodeCommand c = .ok i → encode i = .command c ∧ i.wellFormed = true

/-- A command word decodes exactly when it meets the mask and the match value of one of the formats of rule R72, as the
procedure of rule R81 tests them. -/
def Obligations.DecoderAcceptsByMaskAndMatch : Prop :=
  ∀ c : Word64, (∃ i, decodeCommand c = .ok i) ↔
    (c &&& 0xFFFFFFFFFFFFFFFF#64 = 0x1000000000000000#64 ∨ c &&& 0xFFFFFFFF00000000#64 = 0x2000000000000000#64 ∨
      c &&& 0xFE00808000000000#64 = 0x3000000000000000#64 ∨ c &&& 0xFF0080FFFFFFFFFF#64 = 0x4000000000000000#64 ∨
      c &&& 0xFF00FFFFFFFFFFFF#64 = 0x5000000000000000#64 ∨ c &&& 0xFF008080FFFFFFFF#64 = 0x6000000000000000#64 ∨
      c &&& 0xFF00FFFFFFFF0000#64 = 0x7000000000000000#64 ∨ c &&& 0xFFFFFFFF00000000#64 = 0x8000000000000000#64)

/-- Words written out in `95_test_vectors.md` section 2.1, one of each family, decode to the calls they stand for, and kind
bytes of the opcode table to their generators; and of a flags word only bit 0, which selects the decoder, and bit 30, the
loop attribute, are read (rule R82). -/
def Obligations.SpecWordsDecode : Prop :=
  decodeTableWord 64 0x1000000000000000 = some .reset ∧
    decodeTableWord 64 0x200000000000AC44 = some (.setRate 44100) ∧
    decodeTableWord 64 0x3109246400000340 = some (.noteOn true 9 36 100 0x340) ∧
    decodeTableWord 64 0x40003C0000000000 = some (.noteOff 0 60) ∧
    decodeTableWord 64 0x5009000000000000 = some (.allOff 9) ∧
    decodeTableWord 64 0x6000060200000000 = some (.ccBendr 0 2) ∧
    decodeTableWord 64 0x7000000000000000 = some (.pbend 0 0) ∧
    decodeTableWord 64 0x700000000000E000 = some (.pbend 0 (-8192)) ∧
    decodeTableWord 64 0x8000000000000100 = some (.render 256) ∧
    decodeTableWord 32 0x40000000 = some (.decodeRaw true) ∧ decodeTableWord 32 0x00000001 = some (.decodeDpcm false) ∧
    decodeTableWord 8 0x01 = some .voiceDirectsound ∧ decodeTableWord 8 0x07 = some .voiceKeysplitall ∧
    decodeTableWord 8 0x08 = none ∧ decodeTableWord 64 0x3000BC6400000100 = none ∧
    ∀ f : Word32,
      decode (.flags f) = .ok (if f.getLsbD 0 then .decodeDpcm (f.getLsbD 30) else .decodeRaw (f.getLsbD 30)) ∧
        decode (.flags (f &&& 0x40000001#32)) = decode (.flags f)

/-! ## The step, the lock and the command port -/

/-- A step runs the operation it decodes and then releases the lock; with nothing to take it changes nothing. The cases in
which the state fixes the code: only the host waits, only the audio agent waits, or an internal operation is asked for
(notes/assumptions/7.md), whose selector is the flags word of the blob or the kind byte of the slot's record. -/
def Obligations.StepRunsTheDecodedOperation : Prop :=
  (∀ (s : State) (f : Fetched) (i : Instr), fetch s = some f → decode f.code = .ok i →
      step s = finish (exec i f.state)) ∧
    (∀ (s : State) (w : Word64) (rest : List Word64), s.lock = .free → s.request = none →
      s.hostQueue = w :: rest → s.audioQueue = [] →
      fetch s = some ⟨.command w, { s with hostQueue := rest, lock := .host }⟩) ∧
    (∀ (s : State) (w : Word64) (rest : List Word64), s.lock = .free → s.request = none →
      s.hostQueue = [] → s.audioQueue = w :: rest →
      fetch s = some ⟨.command w, { s with audioQueue := rest, lock := .audio }⟩) ∧
    (∀ s : State, s.lock = .free → s.request = some .decode →
      fetch s = some ⟨.flags (BitVec.ofNat 32 (s.platform.bank.read32 s.decAddr.toNat)), { s with request := none }⟩) ∧
    (∀ s : State, s.lock = .free → s.request = some .generator →
      (s.v[s.genSlot.val]).voiceRef.toNat + 16 ≤ s.platform.params.bankSize →
      fetch s = some ⟨.kind (s.platform.bank.read (s.v[s.genSlot.val]).voiceRef.toNat), { s with request := none }⟩) ∧
    (∀ s : State, fetch s = none → step s = .next s) ∧
    ∀ s t : State, finish (.next s) = .next t ↔ t = { s with lock := .free }

/-- A command word that stands for no operation is taken from the port, and that is all it does (rule R80: "The engine
takes the word, changes no state, emits nothing and signals nothing"). -/
def Obligations.ReservedWordIsDropped : Prop :=
  ∀ (s : State) (w : Word64) (rest : List Word64) (r : Reject), s.lock = .free → s.request = none →
    decodeCommand w = .error r →
    (s.hostQueue = w :: rest → s.audioQueue = [] → step s = .next { s with hostQueue := rest }) ∧
      (s.hostQueue = [] → s.audioQueue = w :: rest → step s = .next { s with audioQueue := rest })

/-- Admission keeps the order of each agent: what is admitted is the oldest command of one agent, the other agent's
commands stay as they were, and the agent admitted holds the lock; with a command waiting and the lock free, one is
admitted; and a step that starts with the lock free ends with it free (rules R25, R62, R63). -/
def Obligations.AdmissionTakesTheOldestOfOneAgent : Prop :=
  (∀ s t : State, s.lock = .free → step s = .next t → t.lock = .free) ∧
  ∀ s : State, s.request = none →
    (∀ f : Fetched, fetch s = some f →
      s.lock = .free ∧
        ((∃ w rest, s.hostQueue = w :: rest ∧ f.code = .command w ∧ f.state.hostQueue = rest ∧
            f.state.audioQueue = s.audioQueue ∧ f.state.lock = .host) ∨
          ∃ w rest, s.audioQueue = w :: rest ∧ f.code = .command w ∧ f.state.audioQueue = rest ∧
            f.state.hostQueue = s.hostQueue ∧ f.state.lock = .audio)) ∧
      (s.lock = .free → (s.hostQueue ≠ [] ∨ s.audioQueue ≠ []) → ∃ f, fetch s = some f)

/-! ## What no operation does -/

/-- No operation writes bank memory or a parameter: every byte reads after as before (rules R53, R64). -/
def Obligations.NoOperationWritesTheBank : Prop :=
  ∀ (i : Instr) (s t : State), exec i s = .next t →
    t.platform = s.platform ∧ ∀ a : Nat, t.platform.bank.read a = s.platform.bank.read a

/-- The write columns of the access matrix (`10_state.md` section 8), for every operation: only SET_RATE writes the rate;
only RESET and RENDER `frame_acc`; only RESET and NOTE_ON the trigger counter; only RENDER emits frames; SET_RATE,
NOTE_ON, NOTE_OFF, ALL_OFF and the operations of bank memory write no channel; SET_RATE and the control changes but
CC 123 write no slot; only the decoder and the generators, asked for by themselves, deliver a result; and no operation
writes the lock or the command port. Channel by channel: but for RESET, only CC 7 and CC 10 on the channel write its volume
and its pan, only CC 6 its bend range, only PBEND on it its bend, nothing its program, so that RENDER keeps all five; and
only RENDER and the seven control changes of the ModState on the channel write its ModState, so that PBEND keeps it. -/
def Obligations.OperationsWriteOnlyTheirOwnState : Prop :=
  ∀ (i : Instr) (s t : State), exec i s = .next t →
    (t.sampleRate = s.sampleRate ∨ ∃ w, i = .setRate w) ∧
      (t.frameAcc = s.frameAcc ∨ i = .reset ∨ ∃ n, i = .render n) ∧
      (t.triggerCounter = s.triggerCounter ∨ i = .reset ∨ ∃ r c n v a, i = .noteOn r c n v a) ∧
      (t.audio = s.audio ∨ ∃ n, i = .render n) ∧
      (t.ch = s.ch ∨ i = .reset ∨ (∃ n, i = .render n) ∨ (∃ c b, i = .pbend c b) ∨
        ∃ c k v w rest, encode i = .command w ∧ splitWord w = ⟨6, 0, 0, c, 0, k, 0, v, rest⟩) ∧
      (t.v = s.v ∨ i = .reset ∨ (∃ n, i = .render n) ∨ (∃ c b, i = .pbend c b) ∨ (∃ r c n v a, i = .noteOn r c n v a) ∨
        (∃ c n, i = .noteOff c n) ∨ (∃ c, i = .allOff c) ∨ (∃ c v, i = .ccAlloff c v) ∨
        ∃ b, encode i = .kind b) ∧
      t.lock = s.lock ∧ t.hostQueue = s.hostQueue ∧ t.audioQueue = s.audioQueue ∧ t.arbitrations = s.arbitrations ∧
      (t.decResult = s.decResult ∨ ∃ b, i = .decodeRaw b ∨ i = .decodeDpcm b) ∧
      (t.genOut = s.genOut ∨ ∃ b, encode i = .kind b) ∧
      t.request = s.request ∧ t.decAddr = s.decAddr ∧ t.decLen = s.decLen ∧ t.genSlot = s.genSlot ∧
      ∀ c : Fin 16,
        let x := s.ch[c.val]
        let y := t.ch[c.val]
        let byController : List (BitVec 7) → Prop := fun ks =>
          ∃ ch k v w rest, encode i = .command w ∧ splitWord w = ⟨6, 0, 0, ch, 0, k, 0, v, rest⟩ ∧ k ∈ ks ∧ ch.toNat = c.val
        (y.volume = x.volume ∨ i = .reset ∨ byController [7]) ∧
          (y.pan = x.pan ∨ i = .reset ∨ byController [10]) ∧
          (y.pitchBendRange = x.pitchBendRange ∨ i = .reset ∨ byController [6]) ∧
          (y.pitchBendSemitones = x.pitchBendSemitones ∨ i = .reset ∨ ∃ ch b, i = .pbend ch b ∧ ch.toNat = c.val) ∧
          (y.program = x.program ∨ i = .reset) ∧
          (y.modState = x.modState ∨ i = .reset ∨ (∃ n, i = .render n) ∨ byController [1, 21, 22, 24, 26, 29, 30])

/-- A rhythm voice keeps its steps for life, and every voice its pan and its identity, whatever is executed but a NOTE_ON;
and the steps of any voice change only in PBEND and RENDER (rules R247, R248, R285). For a slot that is inactive, or that
RESET or ALL_OFF stops, rule R36 leaves these fields unspecified: that they stay is the model's choice
(notes/assumptions/23.md, DEDUCED). -/
def Obligations.StepsPanAndIdentityAreKept : Prop :=
  ∀ (i : Instr) (s t : State) (k : Fin 24), exec i s = .next t → (∀ r c n v a, i ≠ .noteOn r c n v a) →
    (t.v[k.val]).pan = (s.v[k.val]).pan ∧ (t.v[k.val]).channel = (s.v[k.val]).channel ∧
      (t.v[k.val]).note = (s.v[k.val]).note ∧ (t.v[k.val]).velocity = (s.v[k.val]).velocity ∧
      (t.v[k.val]).voiceRef = (s.v[k.val]).voiceRef ∧ (t.v[k.val]).isRhythm = (s.v[k.val]).isRhythm ∧
      (t.v[k.val]).triggerOrder = (s.v[k.val]).triggerOrder ∧
      (((s.v[k.val]).isRhythm = true ∨ ((∀ c b, i ≠ .pbend c b) ∧ ∀ n, i ≠ .render n)) →
        (t.v[k.val]).sampleStep = (s.v[k.val]).sampleStep ∧
          (t.v[k.val]).squarePhaseInc = (s.v[k.val]).squarePhaseInc ∧
          (t.v[k.val]).noiseInterval = (s.v[k.val]).noiseInterval)

/-- Bank memory: a write sets the one byte, leaves every other, and keeps the canonical form. The canonical form is the
model's own. -/
def Obligations.MemoryWriteSetsOneByte : Prop :=
  ∀ (m : Memory) (a b : Nat) (x : Byte), m.wf →
    (m.write a x).wf ∧ (m.write a x).read b = if b = a then x else m.read b

/-! ## RESET and SET_RATE -/

/-- RESET completes in every state, with every slot Off and inactive, the counters 0, the channels at their defaults, and
nothing else changed (rule R101). That a slot's other fields stay as they were is the model's choice
(notes/assumptions/23.md, DEDUCED); rules R36 and R273 leave them unspecified. -/
def Obligations.ResetRestoresTheDefaults : Prop :=
  ∀ s : State, ∃ (cs : Vector Channel 16) (vs : Vector Slot 24),
    exec .reset s = .next { s with frameAcc := 0, triggerCounter := 0, ch := cs, v := vs } ∧
      (∀ i : Fin 24, vs[i.val] = { s.v[i.val] with active := false, phase := .off }) ∧
      ∀ c : Fin 16, (cs[c.val]).volume = 1 ∧ (cs[c.val]).pan = 1 / 2 ∧ (cs[c.val]).pitchBendSemitones = 0 ∧
        (cs[c.val]).pitchBendRange = 2 ∧ (cs[c.val]).program = 0 ∧
        (cs[c.val]).modState = s.platform.params.modstateReset

/-- RESET is idempotent, and two engines with the same rate, bank and parameters are in the same state after it, but for
the slot fields that cannot be observed (rules R36, R274). -/
def Obligations.ResetIsIdempotentAndForgets : Prop :=
  (∀ s t : State, exec .reset s = .next t → exec .reset t = .next t) ∧
    ∀ s s' t t' : State, s.platform = s'.platform → s.sampleRate = s'.sampleRate →
      exec .reset s = .next t → exec .reset s' = .next t' →
      t.sampleRate = t'.sampleRate ∧ t.frameAcc = t'.frameAcc ∧ t.triggerCounter = t'.triggerCounter ∧ t.ch = t'.ch ∧
        ∀ i : Fin 24, (t.v[i.val]).active = (t'.v[i.val]).active ∧ (t.v[i.val]).phase = (t'.v[i.val]).phase

/-- The state after reset (rules R270, R273), and every invariant of this file holds in it. What the spec does not give is
the model's choice: the rate 44100 (notes/assumptions/1.md), the pan positions of the slots (5.md) and the size of the bank
(6.md), each DESIGN CHOICE; the tables (12.md, PRESUMED); the zero ModState and the seeds (13.md, DESIGN CHOICE, the spec's
defaults); `FP` exact and `REF_HZ` 440 (9.md and 11.md, the spec's defaults). -/
def Obligations.PowerOnStateIsTheResetState : Prop :=
  State.reset.frameAcc = 0 ∧ State.reset.triggerCounter = 0 ∧ State.reset.lock = .free ∧
    (∀ c : Fin 16, State.reset.ch[c.val] = ⟨1, 1 / 2, 0, 2, 0, .zero⟩) ∧
    (∀ i : Fin 24, (State.reset.v[i.val]).active = false ∧ (State.reset.v[i.val]).phase = .off) ∧
    State.reset.audio = [] ∧ State.reset.sampleRate = some 44100 ∧ State.reset.platform.bank.wf ∧
    State.reset.platform.params.fp = .exact ∧ State.reset.platform.params.refHz = 440 ∧
    State.reset.poolConsistent ∧ State.reset.envelopesInRange ∧ State.reset.bendsAgree ∧ State.reset.clocksLegal ∧
    State.reset.mixLegal ∧ State.reset.generatorsLegal ∧ State.reset.platform.params.legal

/-- SET_RATE writes the rate and nothing else: no slot's step and not `frame_acc`; a rate of 0 is dropped (rule R102). -/
def Obligations.SetRateWritesTheRateOnly : Prop :=
  ∀ (s : State) (w : Word32),
    (w ≠ 0 → exec (.setRate w) s = .next { s with sampleRate := some (w.toNat : Rat) }) ∧
      (w = 0 → exec (.setRate w) s = .next s)

/-! ## Control changes -/

/-- CC 1 and CC 21 store the depth and the speed of the LFO; the value 0 also restarts it: phase 0, countdown reloaded
from the delay (rules R109, R113, R121). -/
def Obligations.DepthAndSpeedZeroRestartTheLfo : Prop :=
  ∀ (s : State) (ch : Byte) (c : Fin 16) (v : BitVec 7), ch.toNat = c.val →
    let x := s.ch[c.val]
    let m := x.modState
    let put : ModState → State := fun m' => { s with ch := s.ch.set c.val { x with modState := m' } }
    (v ≠ 0 → exec (.ccMod ch v) s = .next (put { m with mod := v.setWidth 8 }) ∧
      exec (.ccLfos ch v) s = .next (put { m with lfoSpeed := v.setWidth 8 })) ∧
    (v = 0 →
      exec (.ccMod ch v) s = .next (put { m with mod := 0, lfoPhaseCounter := 0, lfoDelayCountdown := m.lfoDelay }) ∧
      exec (.ccLfos ch v) s =
        .next (put { m with lfoSpeed := 0, lfoPhaseCounter := 0, lfoDelayCountdown := m.lfoDelay }))

/-- CC 22, 24, 26 and 30 store the modulation type, the fine tune as `value - 64`, the LFO delay (with its countdown) and
the XCMD type; CC 29 writes the echo volume when the XCMD type is 8, the echo length when it is 9, and else nothing; none
writes anything else (rules R114 to R118). -/
def Obligations.ModulationSettingsAreStored : Prop :=
  ∀ (s : State) (ch : Byte) (c : Fin 16) (v : BitVec 7), ch.toNat = c.val →
    let x := s.ch[c.val]
    let m := x.modState
    let put : ModState → State := fun m' => { s with ch := s.ch.set c.val { x with modState := m' } }
    exec (.ccModt ch v) s = .next (put { m with modType := v.setWidth 8 }) ∧
    (∃ b : Byte, b.toInt = (v.toNat : Int) - 64 ∧ exec (.ccTune ch v) s = .next (put { m with fineTune := b })) ∧
    exec (.ccLfodl ch v) s = .next (put { m with lfoDelay := v.setWidth 8, lfoDelayCountdown := v.setWidth 8 }) ∧
    exec (.ccXcmdtype ch v) s = .next (put { m with xcmdType := v.setWidth 8 }) ∧
    (m.xcmdType = 8 → exec (.ccXcmd ch v) s = .next (put { m with pseudoEchoVol := v.setWidth 8 })) ∧
    (m.xcmdType = 9 → exec (.ccXcmd ch v) s = .next (put { m with pseudoEchoLen := v.setWidth 8 })) ∧
    (m.xcmdType ≠ 8 → m.xcmdType ≠ 9 → exec (.ccXcmd ch v) s = .next s)

/-- CC 7 and CC 10 store `value / 127`, in exact reals, CC 6 the bend range, and write nothing else (rules R110, R111,
R112). -/
def Obligations.VolumePanAndRangeAreStored : Prop :=
  ∀ (s : State) (ch : Byte) (c : Fin 16) (v : BitVec 7), ch.toNat = c.val →
    let x := s.ch[c.val]
    let put : Channel → State := fun y => { s with ch := s.ch.set c.val y }
    (s.platform.params.fp = .exact →
      exec (.ccVol ch v) s = .next (put { x with volume := (v.toNat : Rat) / 127 }) ∧
        exec (.ccPan ch v) s = .next (put { x with pan := (v.toNat : Rat) / 127 })) ∧
    exec (.ccBendr ch v) s = .next (put { x with pitchBendRange := v.setWidth 32 })

/-- A control change or a pitch bend on a channel above 15 is dropped (rules R106, R108), and so is, on every channel, a
control change of a controller the table does not name (rule R120). -/
def Obligations.BadChannelsAndOtherControllersAreDropped : Prop :=
  (∀ (s : State) (ch : Byte) (v : BitVec 7), 15 < ch.toNat →
    ∀ i ∈ [Instr.ccMod ch v, .ccBendr ch v, .ccVol ch v, .ccPan ch v, .ccLfos ch v, .ccModt ch v, .ccTune ch v,
        .ccLfodl ch v, .ccXcmd ch v, .ccXcmdtype ch v, .ccAlloff ch v], exec i s = .next s) ∧
    (∀ (s : State) (ch : Byte) (b : BitVec 16), 15 < ch.toNat → s.sampleRate ≠ none →
      exec (.pbend ch b) s = .next s) ∧
    ∀ (s : State) (ch : Byte) (k v : BitVec 7), exec (.ccOther ch k v) s = .next s

/-! ## Notes -/

/-- ALL_OFF stops the active voices of its channel at once, leaves every other slot and everything else as it was, and for
a channel above 15 does nothing; CC 123 does the same, whatever its value (rules R105, R119). That a stopped slot's other
fields stay as they were is the model's choice (notes/assumptions/23.md, DEDUCED); rule R36 leaves them unspecified. -/
def Obligations.AllOffStopsTheChannel : Prop :=
  ∀ (s : State) (ch : Byte),
    (∃ vs : Vector Slot 24, exec (.allOff ch) s = .next { s with v := vs } ∧
      ∀ i : Fin 24, vs[i.val] =
        if (s.v[i.val]).active = true ∧ (s.v[i.val]).channel.val = ch.toNat then
          { s.v[i.val] with active := false, phase := .off }
        else s.v[i.val]) ∧
    (15 < ch.toNat → exec (.allOff ch) s = .next s) ∧
    ∀ v : BitVec 7, exec (.ccAlloff ch v) s = exec (.allOff ch) s

/-- NOTE_OFF moves every active voice of the channel and note that is in Attack, Decay or Sustain to Release, loads the
counter of a CGB voice, keeps its volume, and changes nothing else; a channel above 15 matches no slot (rule R104). -/
def Obligations.NoteOffReleasesTheMatchingVoices : Prop :=
  ∀ (s : State) (ch : Byte) (note : BitVec 7),
    (∃ vs : Vector Slot 24, exec (.noteOff ch note) s = .next { s with v := vs } ∧
      ∀ i : Fin 24, vs[i.val] =
        if (s.v[i.val]).active = true ∧ (s.v[i.val]).channel.val = ch.toNat ∧ (s.v[i.val]).note = note ∧
            (s.v[i.val]).phase ≠ .release ∧ (s.v[i.val]).phase ≠ .echo ∧ (s.v[i.val]).phase ≠ .off then
          { s.v[i.val] with
            phase := .release
            envelopeCounter :=
              if (s.v[i.val]).isCgbVoice then
                ((readVoice s.platform (s.v[i.val]).voiceRef).release.toNat : Int)
              else (s.v[i.val]).envelopeCounter }
        else s.v[i.val]) ∧
      (15 < ch.toNat → exec (.noteOff ch note) s = .next s)

/-- While there is no rate, NOTE_ON, PBEND and RENDER are refused (rule R195). The spec does not order this refusal against
the drop of a bad channel or record: that it comes first is the model's choice (notes/assumptions/17.md, DEDUCED). -/
def Obligations.NoRateNoSound : Prop :=
  ∀ s : State, s.sampleRate = none →
    (∀ r ch note vel ref, exec (.noteOn r ch note vel ref) s = .refused .rateNotSet) ∧
      (∀ ch b, exec (.pbend ch b) s = .refused .rateNotSet) ∧ ∀ n, exec (.render n) s = .refused .rateNotSet

/-- NOTE_ON on a channel above 15, or with a record that is Empty, a Keysplit, a KeysplitAll, of a reserved kind or not
wholly inside the bank, writes nothing (rules R54, R57, R161); with a leaf record outside the ranges of rule R59 it is
refused (item U5 of `93_implementation_defined.md`). That a bad channel drops the command also when the record is malformed
is the model's choice (notes/assumptions/17.md, DEDUCED). -/
def Obligations.NoteOnTurnsBadRecordsAway : Prop :=
  ∀ (s : State) (r : Bool) (ch : Byte) (note vel : BitVec 7) (ref : Word32), s.sampleRate ≠ none →
    ((15 < ch.toNat ∨ s.platform.params.bankSize < ref.toNat + 16 ∨
        (s.platform.bank.read ref.toNat).toNat ∉ [1, 2, 3, 4, 5]) →
      exec (.noteOn r ch note vel ref) s = .next s) ∧
    (ch.toNat ≤ 15 → ref.toNat + 16 ≤ s.platform.params.bankSize →
      (s.platform.bank.read ref.toNat).toNat ∈ [1, 2, 3, 4, 5] →
      (((s.platform.bank.read ref.toNat).toNat ∈ [2, 3, 4, 5] ∧ 15 < (s.platform.bank.read (ref.toNat + 6)).toNat) ∨
        127 < (s.platform.bank.read (ref.toNat + 2)).toNat ∨ 127 < (s.platform.bank.read (ref.toNat + 1)).toNat) →
      exec (.noteOn r ch note vel ref) s = .refused .malformedVoice)

/-- NOTE_ON with a rate, a channel and a well-formed leaf record completes: it writes the trigger counter and slots only,
retires the sounding voices of the same channel and note (unless the freed slot is the one taken), and gives the slot the
allocator picks the identity, the class and the channel copies of rule R165; the slot is the one `startVoice` makes, of
which the next statements say more (rules R161 to R165, R177). -/
def Obligations.NoteOnStartsTheVoice : Prop :=
  ∀ (s : State) (rate : Rat) (r : Bool) (ch : Byte) (c : Fin 16) (note vel : BitVec 7) (ref : Word32),
    s.sampleRate = some rate → ch.toNat = c.val → kindSounds (readVoice s.platform ref).kind = true →
    (readVoice s.platform ref).wellFormed = true →
    ∃ (retired vs : Vector Slot 24),
      exec (.noteOn r ch note vel ref) s = .next { s with v := vs, triggerCounter := s.triggerCounter + 1 } ∧
        (∀ i : Fin 24, retired[i.val] =
          if (s.v[i.val]).active = true ∧ (s.v[i.val]).channel = c ∧ (s.v[i.val]).note = note then
            { s.v[i.val] with active := false, phase := .off }
          else s.v[i.val]) ∧
        (∀ i : Fin 24, i ≠ steal retired → vs[i.val] = retired[i.val]) ∧
        vs[(steal retired).val] =
          startVoice s.platform rate r c note vel ref (s.triggerCounter + 1) s.ch[c.val] (readVoice s.platform ref)
            retired[(steal retired).val] ∧
        (vs[(steal retired).val]).active = true ∧ (vs[(steal retired).val]).channel = c ∧
        (vs[(steal retired).val]).note = note ∧ (vs[(steal retired).val]).velocity = vel ∧
        (vs[(steal retired).val]).voiceRef = ref ∧ (vs[(steal retired).val]).isRhythm = r ∧
        (vs[(steal retired).val]).triggerOrder = s.triggerCounter + 1 ∧
        (vs[(steal retired).val]).pitchBend = (s.ch[c.val]).pitchBendSemitones ∧
        (vs[(steal retired).val]).pseudoEchoVol = (s.ch[c.val]).modState.pseudoEchoVol ∧
        (vs[(steal retired).val]).pseudoEchoLen = ((s.ch[c.val]).modState.pseudoEchoLen.toNat : Int) ∧
        ((vs[(steal retired).val]).isCgbVoice = true ↔
          (readVoice s.platform ref).kind ∈ [Kind.square1, .square2, .progWave, .noise])

/-- Immediately after a NOTE_ON that is not dropped, exactly one active voice has its channel and note (rules R33 (e),
R175 (b)). -/
def Obligations.NoteOnLeavesExactlyOneSuchVoice : Prop :=
  ∀ (s t : State) (r : Bool) (ch : Byte) (c : Fin 16) (note vel : BitVec 7) (ref : Word32),
    ch.toNat = c.val → kindSounds (readVoice s.platform ref).kind = true →
    exec (.noteOn r ch note vel ref) s = .next t →
    ∃! i : Fin 24, (t.v[i.val]).active = true ∧ (t.v[i.val]).channel = c ∧ (t.v[i.val]).note = note

/-- The envelope with which a new voice leaves NOTE_ON, its immediate step done: a DirectSound voice at
`min(attack, 255)`, in Decay if that is 255; a CGB voice with `attack = 0` in Decay at 15, with `attack = 1` in Attack at
1, with `attack >= 2` in Attack at 0 with its counter at `attack - 1` (rules R167, R170). -/
def Obligations.NewVoiceHasTakenItsFirstEnvelopeStep : Prop :=
  ∀ (pf : Platform) (rate : Rat) (r : Bool) (c : Fin 16) (note vel : BitVec 7) (ref : Word32) (order : BitVec 64)
      (x : Channel) (v : Slot),
    let vo := readVoice pf ref
    let w := startVoice pf rate r c note vel ref order x vo v
    (kindIsCgb vo.kind = false →
      w.envelopeGoal = 15 ∧ w.sustainGoal = 0 ∧ w.envelopeCounter = 0 ∧
        w.envelopeVolume = min (vo.attack.toNat : Int) 255 ∧
        (w.phase = .decay ↔ vo.attack.toNat = 255) ∧ (w.phase = .attack ↔ vo.attack.toNat ≠ 255)) ∧
    (kindIsCgb vo.kind = true →
      w.envelopeGoal = 15 ∧ w.sustainGoal = (15 * (vo.sustain.toNat : Int) + 15) / 16 ∧
      (vo.attack.toNat = 0 → w.phase = .decay ∧ w.envelopeVolume = 15 ∧ w.envelopeCounter = (vo.decay.toNat : Int)) ∧
      (vo.attack.toNat = 1 → w.phase = .attack ∧ w.envelopeVolume = 1 ∧ w.envelopeCounter = 1) ∧
      (2 ≤ vo.attack.toNat →
        w.phase = .attack ∧ w.envelopeVolume = 0 ∧ w.envelopeCounter = (vo.attack.toNat : Int) - 1))

/-- The oscillator and the pan with which a new voice starts, in exact reals: position, phase and timer 0, the seed of its
register width, the step of its kind at zero offset from its tuning key (the record's key for a rhythm voice), the other
steps 0, and the equal-power gains of the averaged pan (rules R166, R168, R169). -/
def Obligations.NewVoiceStartsItsOscillator : Prop :=
  ∀ (pf : Platform) (rate : Rat) (r : Bool) (c : Fin 16) (note vel : BitVec 7) (ref : Word32) (order : BitVec 64)
      (x : Channel) (v : Slot),
    let vo := readVoice pf ref
    let w := startVoice pf rate r c note vel ref order x vo v
    let key : Int := if r then (vo.baseMidiKey.toNat : Int) else (note.toNat : Int)
    pf.params.fp = .exact → 0 < pf.params.refHz → kindSounds vo.kind = true →
    w.samplePos = .zero ∧ w.squarePhase = 0 ∧ w.noiseTimer = 0 ∧
      w.noiseWidth7bit = decide (vo.kind = .noise ∧ vo.param ≠ 0) ∧
      w.lfsr = (if w.noiseWidth7bit then pf.params.lfsrSeed7 else pf.params.lfsrSeed15) ∧
      w.noiseOutput.toInt = (if w.lfsr.getLsbD 0 = pf.params.noisePolarity then 64 else -64) ∧
      Slot.retuned pf rate key 0 { w with sampleStep := .zero, squarePhaseInc := 0, noiseInterval := 0 } w ∧
      (let p : Rat := ((if vo.pan = 0 then 1 / 2 else (vo.pan.toInt : Rat) / 127) + x.pan) / 2
       w.panL = Real.cos ((p : ℝ) * Real.pi / 2) ∧ w.panR = Real.sin ((p : ℝ) * Real.pi / 2))

/-- The allocator: the first inactive slot; else the quietest voice in Echo; else in Release; else not in Attack; else the
oldest; ties to the lowest-numbered slot (rules R172, R173). -/
def Obligations.AllocatorPicksByPhaseVolumeAndAge : Prop :=
  ∀ pool : Vector Slot 24,
    let i := steal pool
    let quietest := fun p : Slot → Prop =>
      p pool[i.val] ∧ ∀ j : Fin 24, p pool[j.val] →
        (pool[i.val]).envelopeVolume ≤ (pool[j.val]).envelopeVolume ∧
          (j < i → (pool[i.val]).envelopeVolume < (pool[j.val]).envelopeVolume)
    ((∃ j : Fin 24, (pool[j.val]).active = false) →
      (pool[i.val]).active = false ∧ ∀ j : Fin 24, j < i → (pool[j.val]).active = true) ∧
    ((∀ j : Fin 24, (pool[j.val]).active = true) →
      ((∃ j : Fin 24, (pool[j.val]).phase = .echo) → quietest fun v => v.phase = .echo) ∧
      ((∀ j : Fin 24, (pool[j.val]).phase ≠ .echo) →
        ((∃ j : Fin 24, (pool[j.val]).phase = .release) → quietest fun v => v.phase = .release) ∧
        ((∀ j : Fin 24, (pool[j.val]).phase ≠ .release) →
          ((∃ j : Fin 24, (pool[j.val]).phase ≠ .attack) → quietest fun v => v.phase ≠ .attack) ∧
          ((∀ j : Fin 24, (pool[j.val]).phase = .attack) →
            ∀ j : Fin 24, (pool[i.val]).triggerOrder ≤ (pool[j.val]).triggerOrder ∧
              (j < i → (pool[i.val]).triggerOrder < (pool[j.val]).triggerOrder)))))

/-! ## Pitch bend and pitch update -/

/-- PBEND on a channel 0..15 stores `(value / 8192) * range` on the channel and on each of its active voices, and writes
the one step that its kind uses, by the formula of the kind at the total offset, on those that are not rhythm voices;
nothing else changes; on a channel above 15 it is dropped (rules R106, R240 to R247, R249). In exact reals. -/
def Obligations.PitchBendRetunesTheChannel : Prop :=
  ∀ (s : State) (rate : Rat) (ch : Byte) (b : BitVec 16), s.sampleRate = some rate →
    s.platform.params.fp = .exact → 0 < s.platform.params.refHz →
    (15 < ch.toNat → exec (.pbend ch b) s = .next s) ∧
    ∀ c : Fin 16, ch.toNat = c.val →
      let x := s.ch[c.val]
      let semitones : Rat := (b.toInt : Rat) / 8192 * (x.pitchBendRange.toInt : Rat)
      let total : Rat := semitones * 256 + (x.modState.fineTune.toInt : Rat) * 4 +
        (if x.modState.modType = 0 then 16 * (x.modState.modM.toInt : Rat) else 0)
      ∃ vs : Vector Slot 24,
        exec (.pbend ch b) s = .next
          { s with ch := s.ch.set c.val { x with pitchBendSemitones := semitones }, v := vs } ∧
        ∀ i : Fin 24,
          (((s.v[i.val]).active = false ∨ (s.v[i.val]).channel ≠ c) → vs[i.val] = s.v[i.val]) ∧
          ((s.v[i.val]).active = true → (s.v[i.val]).channel = c →
            ((s.v[i.val]).isRhythm = true → vs[i.val] = { s.v[i.val] with pitchBend := semitones }) ∧
            ((s.v[i.val]).isRhythm = false →
              Slot.retuned s.platform rate ((s.v[i.val]).note.toNat : Int) total
                { s.v[i.val] with pitchBend := semitones } vs[i.val]))

/-- Pitch-bend round trip (scenario S4): on a square voice that is not a rhythm voice, with no fine tune and no vibrato
offset, a bend of any value followed by a bend of 0 gives exactly the step that NOTE_ON computes (in exact reals). -/
def Obligations.PitchBendRoundTripIsExact : Prop :=
  ∀ (s t u : State) (rate : Rat) (ch : Byte) (c : Fin 16) (b : BitVec 16) (i : Fin 24),
    s.sampleRate = some rate → s.platform.params.fp = .exact → ch.toNat = c.val →
    (s.v[i.val]).active = true → (s.v[i.val]).channel = c →
    (s.v[i.val]).isRhythm = false →
    ((readVoice s.platform (s.v[i.val]).voiceRef).kind = .square1 ∨
      (readVoice s.platform (s.v[i.val]).voiceRef).kind = .square2) →
    (s.ch[c.val]).modState.fineTune = 0 →
    ((s.ch[c.val]).modState.modType ≠ 0 ∨ (s.ch[c.val]).modState.modM = 0) →
    exec (.pbend ch b) s = .next t → exec (.pbend ch 0) t = .next u →
    (u.v[i.val]).squarePhaseInc =
      squareHz .exact (midiToCgbReg s.platform.params ((s.v[i.val]).note.toNat : Int) 0) / rate ∧
      (u.v[i.val]).pitchBend = 0

/-- The register value is the base entry of the key's scale byte, shifted right, and `fine / 256` of the way to that of the
next key, biased by 2048, at the keys 36..166, and constant below and above (rules R132, R133); with the default
`SCALE_TABLE` it is in 44..2046 for every key and every fine 0..255 (rule R138), and does not fall as the key rises
(rule R139). -/
def Obligations.RegisterValueIsInRangeAndMonotone : Prop :=
  (∀ (p : Params) (fine : Int), (∀ e ∈ p.scaleTable.toList, e.toNat % 16 ≤ 11) →
    let v : Nat → Int := fun k =>
      let e := (p.scaleTable.toList.getD k 0).toNat
      [-2004, -1891, -1785, -1685, -1591, -1501, -1417, -1337, -1262, -1192, -1125, -1062].getD (e % 16) 0
        / 2 ^ (e / 16)
    (∀ key : Int, key ≤ 35 → midiToCgbReg p key fine = v 0 + 2048) ∧
    (∀ k : Nat, k ≤ 130 →
      midiToCgbReg p ((k : Int) + 36) fine = v k + fine * (v (k + 1) - v k) / 256 + 2048) ∧
    ∀ key : Int, 166 < key → midiToCgbReg p key fine = v 130 + 255 * (v 131 - v 130) / 256 + 2048) ∧
  (∀ key fine : Int, 0 ≤ fine → fine ≤ 255 →
    44 ≤ midiToCgbReg Params.standard key fine ∧ midiToCgbReg Params.standard key fine ≤ 2046) ∧
  ∀ key : Int, midiToCgbReg Params.standard key 0 ≤ midiToCgbReg Params.standard (key + 1) 0

/-- In exact reals: the square and the wave frequency of a register, saturated where the denominator is not positive
(rules R134, R135); the noise rate of a key, from the shift and the ratio of its NR43 byte, the key clamped to the table
(rules R136, R137); the noise interval of a key and an offset (rule R246). The split of an offset (rule R242): `fine` is in
0..255, and the offset is `256 * int_semi + fine` and less than one unit more. The noise rate is greater than 0 and at most
524288 for every key and every `NOISE_TABLE`, so that for a rate greater than 0 every noise interval is greater than 0. -/
def Obligations.OffsetSplitsAndNoiseIntervalIsPositive : Prop :=
  (∀ reg : Int,
    (reg < 2048 → squareHz .exact reg = 131072 / (2048 - (reg : Rat)) ∧ waveHz .exact reg = 65536 / (2048 - (reg : Rat))) ∧
      (2048 ≤ reg → squareHz .exact reg = 131072 ∧ waveHz .exact reg = 65536)) ∧
  (∀ total : Rat, 0 ≤ fineOf .exact total ∧ fineOf .exact total ≤ 255 ∧
    ((256 * intSemi .exact total + fineOf .exact total : Int) : Rat) ≤ total ∧
    total < ((256 * intSemi .exact total + fineOf .exact total + 1 : Int) : Rat)) ∧
  ∀ (p : Params) (rate : Rat) (key : Int) (total : Rat), p.fp = .exact →
    (let b := (p.noiseTable.toList.getD (min (max (key - 21) 0) 59).toNat 0).toNat
     noiseKeyToHz p key = 524288 / ((if b % 8 = 0 then 1 / 2 else ((b % 8 : Nat) : Rat)) * 2 ^ (b / 16 + 1))) ∧
    noiseIntervalOf p rate key total = rate / noiseKeyToHz p (key + ⌊total / 256⌋) ∧
    (0 < rate → 0 < noiseKeyToHz p key ∧ noiseKeyToHz p key ≤ 524288 ∧ 0 < noiseIntervalOf p rate key total)

/-- The DirectSound step is the real number
`2^((key - base_midi_key) / 12 + total / 3072) * sample_rate_hz / sample_rate`, and 0 for an unresolved sample
(rule R243): in exact reals, whatever `REF_HZ` is, it cancels. -/
def Obligations.DirectSoundStepIsEqualTempered : Prop :=
  ∀ (p : Params) (rate : Rat) (vo : Voice) (smp : Sample) (key : Int) (total : Rat), 0 < rate →
    p.fp = .exact → 0 < p.refHz →
    dsStep p rate vo none key total = .zero ∧ (dsStep p rate vo (some smp) key total).toReal =
      (2 : ℝ) ^ (((key : ℝ) - (vo.baseMidiKey.toNat : ℝ)) / 12 + (total : ℝ) / 3072)
        * (smp.sampleRateHz : ℝ) / (rate : ℝ)

/-! ## Exact reals -/

/-- The operations on exact reals are those of the real numbers and keep the canonical form (rule R12, `FP` exact). -/
def Obligations.ExactArithmeticIsRealArithmetic : Prop :=
  (∀ q e : Rat, (Pow2Sum.monomial q e).toReal = (q : ℝ) * (2 : ℝ) ^ (e : ℝ) ∧ (Pow2Sum.monomial q e).canonical) ∧
    (∀ x y : Pow2Sum, (x.add y).toReal = x.toReal + y.toReal ∧ (x.canonical → y.canonical → (x.add y).canonical)) ∧
    (∀ (q : Rat) (x : Pow2Sum), (x.scale q).toReal = (q : ℝ) * x.toReal ∧ (x.canonical → (x.scale q).canonical)) ∧
    (∀ x y : Pow2Sum, (x.mul y).toReal = x.toReal * y.toReal ∧ (x.mul y).canonical) ∧
    (∀ t : Pow2Term, t.coef ≠ 0 →
      (Pow2Sum.inv ⟨[t]⟩).toReal = (Pow2Sum.mk [t]).toReal⁻¹ ∧ (Pow2Sum.inv ⟨[t]⟩).canonical) ∧
    (∀ x : Pow2Sum, x.normal.toReal = x.toReal ∧ x.normal.canonical) ∧
    ∀ q : Rat, (Pow2Sum.ofRat q).floor = q.floor

/-- The rational bounds the floor is found from enclose the real number, at every precision, for every number with
exponents in `[0, 1)`; so where they have one floor, it is the number's floor. -/
def Obligations.RationalBoundsEncloseTheNumber : Prop :=
  ∀ (x : Pow2Sum) (k : Nat), x.canonical →
    ((x.lower k : Rat) : ℝ) ≤ x.toReal ∧ x.toReal ≤ ((x.upper k : Rat) : ℝ) ∧
      ((x.lower k).floor = (x.upper k).floor → (x.lower k).floor = ⌊x.toReal⌋)

/-! ## Envelopes -/

/-- A CGB attack rises by 1 every `attack` steps and reaches 15, and Decay, at step `15 * attack` (rule R212). -/
def Obligations.CgbAttackReachesThePeakOnTime : Prop :=
  ∀ (vo : Voice) (v : Slot) (n : Nat), vo.attack.toNat ≠ 0 → v.isCgbVoice = true → v.phase = .attack →
    v.envelopeVolume = 0 → v.envelopeCounter = (vo.attack.toNat : Int) → v.envelopeGoal = 15 →
    (n < 15 * vo.attack.toNat →
      ((envelopeStep vo)^[n] v).phase = .attack ∧
        ((envelopeStep vo)^[n] v).envelopeVolume = ((n / vo.attack.toNat : Nat) : Int)) ∧
    (n = 15 * vo.attack.toNat →
      ((envelopeStep vo)^[n] v).phase = .decay ∧ ((envelopeStep vo)^[n] v).envelopeVolume = 15 ∧
        ((envelopeStep vo)^[n] v).envelopeCounter = (vo.decay.toNat : Int))

/-- A CGB release falls by 1 every `release` steps from the volume `e` it starts at, and after `e * release` steps the
voice is in Echo at the echo level, or Off if that level is 0 (rules R215, R219); that level is `ceil(15 * vol / 256)`
(rule R216). With `release = 0` it ends in one step. -/
def Obligations.CgbReleaseEndsOnTime : Prop :=
  (∀ (vo : Voice) (v : Slot), vo.release.toNat = 0 → v.isCgbVoice = true → v.phase = .release →
    (0 < cgbEchoLevel v → envelopeStep vo v = { v with envelopeVolume := cgbEchoLevel v, phase := .echo }) ∧
      (cgbEchoLevel v ≤ 0 → envelopeStep vo v = { v with envelopeVolume := 0, active := false, phase := .off })) ∧
  (∀ v : Slot, v.envelopeGoal = 15 →
    15 * (v.pseudoEchoVol.toNat : Int) ≤ 256 * cgbEchoLevel v ∧
      256 * cgbEchoLevel v < 15 * (v.pseudoEchoVol.toNat : Int) + 256 ∧ 0 ≤ cgbEchoLevel v ∧ cgbEchoLevel v ≤ 15) ∧
  ∀ (vo : Voice) (v : Slot) (e n : Nat), vo.release.toNat ≠ 0 → v.isCgbVoice = true → v.phase = .release →
    v.active = true → v.envelopeVolume = (e : Int) → 1 ≤ e → v.envelopeCounter = (vo.release.toNat : Int) →
    (n < e * vo.release.toNat →
      ((envelopeStep vo)^[n] v).phase = .release ∧ ((envelopeStep vo)^[n] v).active = true ∧
        ((envelopeStep vo)^[n] v).envelopeVolume = (e : Int) - ((n / vo.release.toNat : Nat) : Int)) ∧
    (n = e * vo.release.toNat →
      (0 < cgbEchoLevel v → ((envelopeStep vo)^[n] v).phase = .echo ∧
        ((envelopeStep vo)^[n] v).envelopeVolume = cgbEchoLevel v) ∧
      (cgbEchoLevel v ≤ 0 → ((envelopeStep vo)^[n] v).phase = .off ∧ ((envelopeStep vo)^[n] v).active = false))

/-- One step of the DirectSound envelope, phase by phase (rules R226 to R230): Attack adds, up to 255 and Decay; Decay and
Release multiply by the record's byte / 256 and end at the sustain level or the echo level, or Off where that level is 0;
Sustain writes nothing; Echo counts down and ends. And a Decay ends within 255 steps, whatever the record (rule R227). -/
def Obligations.DirectSoundDecayEnds : Prop :=
  (∀ (vo : Voice) (v : Slot), v.isCgbVoice = false →
    let up : Int := v.envelopeVolume + (vo.attack.toNat : Int)
    let fall : Int := v.envelopeVolume * (vo.decay.toNat : Int) / 256
    let fade : Int := v.envelopeVolume * (vo.release.toNat : Int) / 256
    (v.phase = .attack →
      (255 ≤ up → envelopeStep vo v = { v with envelopeVolume := 255, phase := .decay }) ∧
        (up < 255 → envelopeStep vo v = { v with envelopeVolume := up })) ∧
    (v.phase = .decay →
      ((vo.sustain.toNat : Int) < fall → envelopeStep vo v = { v with envelopeVolume := fall }) ∧
        (fall ≤ (vo.sustain.toNat : Int) →
          (vo.sustain.toNat ≠ 0 →
            envelopeStep vo v = { v with envelopeVolume := (vo.sustain.toNat : Int), phase := .sustain }) ∧
          (vo.sustain.toNat = 0 →
            envelopeStep vo v = { v with envelopeVolume := 0, active := false, phase := .off }))) ∧
    (v.phase = .sustain → envelopeStep vo v = v) ∧
    (v.phase = .release →
      ((v.pseudoEchoVol.toNat : Int) < fade → envelopeStep vo v = { v with envelopeVolume := fade }) ∧
        (fade ≤ (v.pseudoEchoVol.toNat : Int) →
          (v.pseudoEchoVol.toNat ≠ 0 →
            envelopeStep vo v = { v with envelopeVolume := (v.pseudoEchoVol.toNat : Int), phase := .echo }) ∧
          (v.pseudoEchoVol.toNat = 0 →
            envelopeStep vo v = { v with envelopeVolume := fade, active := false, phase := .off }))) ∧
    (v.phase = .echo →
      (1 < v.pseudoEchoLen → envelopeStep vo v = { v with pseudoEchoLen := v.pseudoEchoLen - 1 }) ∧
        (v.pseudoEchoLen ≤ 1 →
          envelopeStep vo v = { v with pseudoEchoLen := v.pseudoEchoLen - 1, active := false, phase := .off }))) ∧
  ∀ (vo : Voice) (v : Slot), v.isCgbVoice = false → v.phase = .decay → 0 ≤ v.envelopeVolume → v.envelopeVolume ≤ 255 →
    ∃ n, 1 ≤ n ∧ n ≤ 255 ∧ ((envelopeStep vo)^[n] v).phase ≠ .decay ∧
      ∀ k, k < n → ((envelopeStep vo)^[k] v).phase = .decay

/-- One step of the CGB envelope in Attack, Decay, Sustain and Echo (rules R212, R213, R214, R217, R219): the counter
counts down, and where it runs out the volume moves by 1 and the counter is reloaded, until the volume is at the goal;
Attack then goes to Decay, Decay to Sustain at the sustain goal, or Off if the record's sustain is 0; Sustain holds; Echo
counts down and ends. And for both envelopes phases move only forward in the order Attack, Decay, Sustain, Release, Echo,
Off, and a step writes only envelope fields (rules R210, R232). -/
def Obligations.EnvelopePhasesMoveForward : Prop :=
  (∀ (vo : Voice) (v : Slot), v.isCgbVoice = true →
    let peak : Slot :=
      { v with envelopeVolume := v.envelopeGoal, phase := .decay, envelopeCounter := (vo.decay.toNat : Int) }
    let leave : Slot → Slot := fun u =>
      if vo.sustain.toNat = 0 then { u with active := false, phase := .off }
      else { u with envelopeVolume := v.sustainGoal, phase := .sustain }
    (v.phase = .attack →
      (vo.attack.toNat = 0 → envelopeStep vo v = peak) ∧
      (vo.attack.toNat ≠ 0 →
        (1 < v.envelopeCounter → envelopeStep vo v = { v with envelopeCounter := v.envelopeCounter - 1 }) ∧
        (v.envelopeCounter ≤ 1 →
          (v.envelopeGoal ≤ v.envelopeVolume + 1 → envelopeStep vo v = peak) ∧
          (v.envelopeVolume + 1 < v.envelopeGoal →
            envelopeStep vo v =
              { v with envelopeVolume := v.envelopeVolume + 1, envelopeCounter := (vo.attack.toNat : Int) })))) ∧
    (v.phase = .decay →
      (vo.decay.toNat = 0 → envelopeStep vo v = leave v) ∧
      (vo.decay.toNat ≠ 0 →
        (1 < v.envelopeCounter → envelopeStep vo v = { v with envelopeCounter := v.envelopeCounter - 1 }) ∧
        (v.envelopeCounter ≤ 1 →
          (v.envelopeVolume - 1 ≤ v.sustainGoal →
            envelopeStep vo v =
              leave { v with envelopeCounter := v.envelopeCounter - 1, envelopeVolume := v.envelopeVolume - 1 }) ∧
          (v.sustainGoal < v.envelopeVolume - 1 →
            envelopeStep vo v =
              { v with envelopeVolume := v.envelopeVolume - 1, envelopeCounter := (vo.decay.toNat : Int) })))) ∧
    (v.phase = .sustain → envelopeStep vo v = { v with envelopeVolume := v.sustainGoal }) ∧
    (v.phase = .echo →
      (1 < v.pseudoEchoLen → envelopeStep vo v = { v with pseudoEchoLen := v.pseudoEchoLen - 1 }) ∧
        (v.pseudoEchoLen ≤ 1 →
          envelopeStep vo v = { v with pseudoEchoLen := v.pseudoEchoLen - 1, active := false, phase := .off }))) ∧
  ∀ (vo : Voice) (v : Slot),
    let rank : Phase → Nat := fun p =>
      match p with
      | .attack => 0 | .decay => 1 | .sustain => 2 | .release => 3 | .echo => 4 | .off => 5
    rank v.phase ≤ rank (envelopeStep vo v).phase ∧
      ((envelopeStep vo v).active = v.active ∨
        ((envelopeStep vo v).active = false ∧ (envelopeStep vo v).phase = .off)) ∧
      envelopeStep vo v =
        { v with
          active := (envelopeStep vo v).active
          phase := (envelopeStep vo v).phase
          envelopeVolume := (envelopeStep vo v).envelopeVolume
          envelopeCounter := (envelopeStep vo v).envelopeCounter
          pseudoEchoLen := (envelopeStep vo v).pseudoEchoLen }

/-! ## LFO -/

/-- A running LFO advances its phase by the speed each step, wrapping at 256, and its phase comes back after `k` steps
exactly when `256 / gcd(lfo_speed, 256)` divides `k`; depth, speed and delay are kept (rules R203, R208). -/
def Obligations.LfoPhaseHasItsPeriod : Prop :=
  ∀ (m : ModState) (k : Nat), m.mod ≠ 0 → m.lfoSpeed ≠ 0 → m.lfoDelayCountdown = 0 →
    (lfoStep^[k] m).lfoPhaseCounter.toNat = (m.lfoPhaseCounter.toNat + k * m.lfoSpeed.toNat) % 256 ∧
      (lfoStep^[k] m).mod = m.mod ∧ (lfoStep^[k] m).lfoSpeed = m.lfoSpeed ∧
      ((lfoStep^[k] m).lfoPhaseCounter = m.lfoPhaseCounter ↔ 256 / Nat.gcd m.lfoSpeed.toNat 256 ∣ k)

/-- The arms of the LFO step (rules R201 to R204): off, the output is 0 and the phase and the countdown are kept; waiting,
the countdown falls by 1 and the output is kept; running, the phase advances and the output is the low eight bits of
`(mod * wave) >> 6`. With a depth of at most 64 it does not wrap and is in `(-127 * mod) >> 6 .. mod` (rule R208). -/
def Obligations.LfoStepByItsArms : Prop :=
  ∀ m : ModState,
    let cnt : Nat := (m.lfoPhaseCounter.toNat + m.lfoSpeed.toNat) % 256
    let raw : Int := ((m.mod.toNat : Int) * (if cnt < 64 then (cnt : Int) else 128 - (cnt : Int))) / 64
    ((m.lfoSpeed = 0 ∨ m.mod = 0) → lfoStep m = { m with modM := 0 }) ∧
    (m.lfoSpeed ≠ 0 → m.mod ≠ 0 → 0 < m.lfoDelayCountdown.toNat →
      ∃ d : Byte, d.toNat = m.lfoDelayCountdown.toNat - 1 ∧ lfoStep m = { m with lfoDelayCountdown := d }) ∧
    (m.lfoSpeed ≠ 0 → m.mod ≠ 0 → m.lfoDelayCountdown.toNat = 0 →
      lfoStep m = { m with lfoPhaseCounter := BitVec.ofNat 8 cnt, modM := BitVec.ofInt 8 raw } ∧
      (m.mod.toNat ≤ 64 → (lfoStep m).modM.toInt = raw ∧
        (-127 * (m.mod.toNat : Int)) / 64 ≤ raw ∧ raw ≤ (m.mod.toNat : Int)))

/-! ## Tone generators -/

/-- One step of the square generator, on an active slot: `+1/2` while the fraction of the phase is below the duty
threshold, else `-1/2`; then the phase advances; nothing else changes (rule R149, in exact reals). On an inactive slot no
generator writes anything, and the kinds that have no generator never do: that is the model's reading of rules R145 and
R161 (notes/assumptions/19.md, DEDUCED) for a generator asked for by itself (notes/assumptions/7.md). -/
def Obligations.SquareGeneratorComparesThePhase : Prop :=
  ∀ s : State,
    (∀ i ∈ [Instr.voiceEmpty, .voiceKeysplit, .voiceKeysplitall], exec i s = .next s) ∧
    ((s.v[s.genSlot.val]).active = false →
      ∀ i ∈ [Instr.voiceDirectsound, .voiceSquare1, .voiceSquare2, .voiceProgwave, .voiceNoise], exec i s = .next s) ∧
    ∀ i ∈ [Instr.voiceSquare1, .voiceSquare2],
      s.platform.params.fp = .exact → (s.v[s.genSlot.val]).active = true →
        let v := s.v[s.genSlot.val]
        let duty := (readVoice s.platform v.voiceRef).param.toNat
        let threshold : Rat := if duty = 0 then 1 / 8 else if duty = 1 then 1 / 4 else if duty = 2 then 1 / 2 else 3 / 4
        exec i s = .next
          { s with
            v := s.v.set s.genSlot.val { v with squarePhase := v.squarePhase + v.squarePhaseInc }
            genOut := .ofRat (if Int.fract v.squarePhase < threshold then 1 / 2 else -1 / 2) }

/-- One step of the noise generator on an active slot: the register is clocked as often as the timer holds whole
intervals, the timer keeps the rest, and the output is half the sign of the level (rules R150, R151, R152; in exact
reals). -/
def Obligations.NoiseGeneratorClocksByTheTimer : Prop :=
  ∀ s : State, s.platform.params.fp = .exact → (s.v[s.genSlot.val]).active = true → 0 < (s.v[s.genSlot.val]).noiseInterval →
    0 ≤ (s.v[s.genSlot.val]).noiseTimer →
    let v := s.v[s.genSlot.val]
    ∃ (n : Nat) (timer : Rat) (out : Byte),
      timer = v.noiseTimer + 1 - n * v.noiseInterval ∧ 0 ≤ timer ∧ timer < v.noiseInterval ∧
        (n = 0 → out = v.noiseOutput) ∧
        (n ≠ 0 → out.toInt =
          if ((clockRegister v.noiseWidth7bit)^[n] v.lfsr).getLsbD 0 = s.platform.params.noisePolarity then 64 else -64) ∧
        exec .voiceNoise s = .next
          { s with
            v := s.v.set s.genSlot.val
              { v with
                noiseTimer := timer, lfsr := (clockRegister v.noiseWidth7bit)^[n] v.lfsr, noiseOutput := out }
            genOut := .ofRat ((out.toInt : Rat) / 128) }

/-- One clock of the shift register (rule R152), bit by bit: bit 15 becomes 0, bit 14 the exclusive or of bits 0 and 1
(and stays set where bit 15 was), every lower bit the next higher one, but bit 6 in 7-bit mode the exclusive or. A register
that is 0 stays 0; one that is not 0 and has bit 15 clear does not become 0, in 7-bit mode if some bit of the low seven is
set. -/
def Obligations.ShiftRegisterNeverEmpties : Prop :=
  ∀ (width7 : Bool) (x : BitVec 16),
    (let bit : Bool := x.getLsbD 0 != x.getLsbD 1
     (clockRegister width7 x).getLsbD 14 = (x.getLsbD 15 || bit) ∧
       ∀ i : Nat, i < 14 →
         (clockRegister width7 x).getLsbD i = if width7 = true ∧ i = 6 then bit else x.getLsbD (i + 1)) ∧
    (clockRegister width7 x).getLsbD 15 = false ∧ clockRegister width7 0 = 0 ∧
      (x.getLsbD 15 = false → x ≠ 0 → clockRegister false x ≠ 0) ∧
      (x.getLsbD 15 = false → x &&& 0x7F#16 ≠ 0 → clockRegister true x &&& 0x7F#16 ≠ 0)

/-- One step of the DirectSound generator on an active slot with a resolved sample that is not empty, `p` the new position:
before the end it reads at `p` by linear interpolation; at or past the end of a looped sample it wraps into the loop; at or
past the end of any other it ends the voice and outputs 0 (rules R146, R147, R148). First at a rational position `q` and
step `d`, with the new state written out. Then at any position and step, as at most keys (rule R243): the real numbers of
the new position and of the output are the same formulas of the real number `p`, provided the floors that the model
computes on the way (of the new position, of the loop count, of the wrapped position) are those of the real numbers, of
which `RationalBoundsEncloseTheNumber` says when the model's floor is one (notes/assumptions/26.md, DEDUCED). The neighbour
of the last sample is the default of `DS_EDGE`; in exact reals. -/
def Obligations.DirectSoundGeneratorInterpolates : Prop :=
  (∀ (s : State) (smp : Sample) (q d : Rat),
    let v := s.v[s.genSlot.val]
    let p : Rat := q + d
    let wrapped : Rat :=
      (smp.loopStart : Rat) + ((p - smp.loopStart) -
        ((smp.numSamples - smp.loopStart : Nat) : Rat) *
          (⌊(p - smp.loopStart) / ((smp.numSamples - smp.loopStart : Nat) : Rat)⌋ : Int))
    let level : Nat → Rat := fun i => ((smp.pcm.getD i 0).toInt : Rat) / 128
    let next : Nat → Rat := fun i =>
      if i + 1 < smp.numSamples then level (i + 1)
      else if smp.isLooped = true ∧ smp.loopStart < smp.numSamples then level smp.loopStart else level i
    let out : Rat → Rat := fun x => level ⌊x⌋.toNat + Int.fract x * (next ⌊x⌋.toNat - level ⌊x⌋.toNat)
    v.active = true → sampleOfVoice s.platform (readVoice s.platform v.voiceRef) = some smp →
    s.platform.params.dsEdge = .standard → s.platform.params.fp = .exact → 0 < smp.numSamples → 0 ≤ q → 0 ≤ d →
    v.samplePos = .ofRat q → v.sampleStep = .ofRat d →
    (p < smp.numSamples → exec .voiceDirectsound s = .next
      { s with v := s.v.set s.genSlot.val { v with samplePos := .ofRat p }, genOut := .ofRat (out p) }) ∧
    ((smp.numSamples : Rat) ≤ p → smp.isLooped = true → smp.loopStart < smp.numSamples →
      (smp.loopStart : Rat) ≤ wrapped ∧ wrapped < smp.numSamples ∧ exec .voiceDirectsound s = .next
        { s with
          v := s.v.set s.genSlot.val { v with samplePos := .ofRat wrapped }, genOut := .ofRat (out wrapped) }) ∧
    ((smp.numSamples : Rat) ≤ p → (smp.isLooped = false ∨ smp.numSamples ≤ smp.loopStart) →
      exec .voiceDirectsound s = .next
        { s with
          v := s.v.set s.genSlot.val { v with samplePos := .ofRat p, active := false, phase := .off }
          genOut := .zero })) ∧
  ∀ (s : State) (smp : Sample),
    let v := s.v[s.genSlot.val]
    let pos := v.samplePos.add v.sampleStep
    let p : ℝ := v.samplePos.toReal + v.sampleStep.toReal
    let len : Nat := smp.numSamples - smp.loopStart
    let turns : Int := ⌊(p - (smp.loopStart : ℝ)) / (len : ℝ)⌋
    let wrapped : ℝ := (smp.loopStart : ℝ) + ((p - (smp.loopStart : ℝ)) - (len : ℝ) * (turns : ℝ))
    let level : Nat → ℝ := fun i => ((smp.pcm.getD i 0).toInt : ℝ) / 128
    let next : Nat → ℝ := fun i =>
      if i + 1 < smp.numSamples then level (i + 1)
      else if smp.isLooped = true ∧ smp.loopStart < smp.numSamples then level smp.loopStart else level i
    let out : ℝ → ℝ := fun x => level ⌊x⌋.toNat + Int.fract x * (next ⌊x⌋.toNat - level ⌊x⌋.toNat)
    v.active = true → sampleOfVoice s.platform (readVoice s.platform v.voiceRef) = some smp →
    s.platform.params.dsEdge = .standard → s.platform.params.fp = .exact → 0 < smp.numSamples → 0 ≤ p →
    pos.floor = ⌊p⌋ →
    pos.toReal = p ∧
    (p < (smp.numSamples : ℝ) → ∃ o : Pow2Sum,
      exec .voiceDirectsound s = .next
        { s with v := s.v.set s.genSlot.val { v with samplePos := pos }, genOut := o } ∧ o.toReal = out p) ∧
    ((smp.numSamples : ℝ) ≤ p → smp.isLooped = true → smp.loopStart < smp.numSamples →
      ((pos.sub (.ofRat smp.loopStart)).scale (1 / (len : Rat))).floor = turns →
      (loopWrap .exact smp pos).floor = ⌊wrapped⌋ →
      (smp.loopStart : ℝ) ≤ wrapped ∧ wrapped < (smp.numSamples : ℝ) ∧ ∃ o : Pow2Sum,
        exec .voiceDirectsound s = .next
          { s with v := s.v.set s.genSlot.val { v with samplePos := loopWrap .exact smp pos }, genOut := o } ∧
        (loopWrap .exact smp pos).toReal = wrapped ∧ o.toReal = out wrapped) ∧
    ((smp.numSamples : ℝ) ≤ p → (smp.isLooped = false ∨ smp.numSamples ≤ smp.loopStart) →
      exec .voiceDirectsound s = .next
        { s with
          v := s.v.set s.genSlot.val { v with samplePos := pos, active := false, phase := .off }
          genOut := .zero })

/-- One step of the programmable-wave generator on an active slot with a resolved sample, at a rational position `q` and
step `d`: it reads at `q` modulo the number of entries, by linear interpolation to the next entry of the cycle, and then
advances (rule R153; in exact reals). -/
def Obligations.ProgWaveGeneratorCycles : Prop :=
  ∀ (s : State) (smp : Sample) (q d : Rat),
    let v := s.v[s.genSlot.val]
    let pos : Rat := q - (smp.numSamples : Rat) * (⌊q / (smp.numSamples : Rat)⌋ : Int)
    let level : Nat → Rat := fun i => ((smp.pcm.getD i 0).toInt : Rat) / 128
    v.active = true → sampleOfVoice s.platform (readVoice s.platform v.voiceRef) = some smp →
    s.platform.params.fp = .exact → 0 < smp.numSamples → v.samplePos = .ofRat q → v.sampleStep = .ofRat d →
    0 ≤ pos ∧ pos < smp.numSamples ∧ exec .voiceProgwave s = .next
      { s with
        v := s.v.set s.genSlot.val { v with samplePos := .ofRat (q + d) }
        genOut := .ofRat
          (level ⌊pos⌋.toNat +
            Int.fract pos * (level ((⌊pos⌋.toNat + 1) % smp.numSamples) - level ⌊pos⌋.toNat)) }

/-- A programmable-wave voice whose sample is unresolved or empty, and a DirectSound voice whose sample is unresolved,
outputs 0 and changes no field (rule R154). A DirectSound voice whose sample is empty outputs 0 and changes no oscillator
field; it stays active, as rule R154 says, or, in the variant of decision D28 that a parameter of the model's own selects
(notes/assumptions/16.md, DESIGN CHOICE), it ends at once; each is stated. Whatever the sample, the position and the step,
both generators complete on an active slot, write its position only, and of its flags the DirectSound generator may clear
`active` with `phase` Off. -/
def Obligations.SampleGeneratorsAlwaysComplete : Prop :=
  ∀ s : State,
    let v := s.v[s.genSlot.val]
    v.active = true →
    let smp? := sampleOfVoice s.platform (readVoice s.platform v.voiceRef)
    ((∀ smp, smp? = some smp → smp.numSamples = 0) → exec .voiceProgwave s = .next { s with genOut := .zero }) ∧
    (smp? = none → exec .voiceDirectsound s = .next { s with genOut := .zero }) ∧
    (∀ smp, smp? = some smp → smp.numSamples = 0 →
      (s.platform.params.emptyEnds = false → exec .voiceDirectsound s = .next { s with genOut := .zero }) ∧
      (s.platform.params.emptyEnds = true → exec .voiceDirectsound s = .next
        { s with v := s.v.set s.genSlot.val { v with active := false, phase := .off }, genOut := .zero })) ∧
    (∃ (pos out : Pow2Sum), exec .voiceProgwave s = .next
      { s with v := s.v.set s.genSlot.val { v with samplePos := pos }, genOut := out }) ∧
    ∃ (pos out : Pow2Sum),
      exec .voiceDirectsound s = .next
        { s with v := s.v.set s.genSlot.val { v with samplePos := pos }, genOut := out } ∨
      exec .voiceDirectsound s = .next
        { s with
          v := s.v.set s.genSlot.val { v with samplePos := pos, active := false, phase := .off }, genOut := .zero }

/-! ## The sample decoder -/

/-- DECODE.RAW copies `min(payload_bytes, num_samples)` bytes of the payload, and DECODE gives a load error exactly for a
blob shorter than its header or not wholly inside the bank (rules R92, R93, R95; that the second is one follows rule R95
against decision D41, notes/assumptions/16.md, DEDUCED). The sample of a voice record is unresolved if its address is
`0xFFFFFFFF`, and else what DECODE delivers for its blob: DPCM or RAW by bit 0 of the blob's flags, looped by bit 30, and
unresolved on a load error (rules R60, R82, R97). -/
def Obligations.RawDecoderCopiesThePayload : Prop :=
  (∀ (s : State) (vo : Voice),
    (vo.sampleAddr = 0xFFFFFFFF → sampleOfVoice s.platform vo = none) ∧
    (vo.sampleAddr ≠ 0xFFFFFFFF →
      let u : State := { s with decAddr := vo.sampleAddr, decLen := vo.sampleLen }
      let flags : Word32 := BitVec.ofNat 32 (s.platform.bank.read32 vo.sampleAddr.toNat)
      exec (if flags.getLsbD 0 then .decodeDpcm (flags.getLsbD 30) else .decodeRaw (flags.getLsbD 30)) u =
        .next { u with decResult := sampleOfVoice s.platform vo })) ∧
  ∀ (s : State) (looped : Bool),
    let a := s.decAddr.toNat
    let len := s.decLen.toNat
    let n := min (len - 16) ((s.platform.bank.read32 (a + 12) + 1) % 2 ^ 32)
    let rate1024 := s.platform.bank.read32 (a + 4)
    (16 ≤ len ∧ a + len ≤ s.platform.params.bankSize → ∃ pcm : List Byte,
      pcm.length = n ∧ (∀ i, i < n → pcm[i]? = some (s.platform.bank.read (a + 16 + i))) ∧
        exec (.decodeRaw looped) s = .next
          { s with decResult := some (Sample.mk
              (if rate1024 = 0 then 8000 else rate1024 / 1024) (s.platform.bank.read32 (a + 8)) n looped false pcm) }) ∧
    (¬(16 ≤ len ∧ a + len ≤ s.platform.params.bankSize) →
      exec (.decodeRaw looped) s = .next { s with decResult := none } ∧
        exec (.decodeDpcm looped) s = .next { s with decResult := none })

/-- DECODE.DPCM yields two samples for each payload byte, whatever the header's length; sample `k` is the sum, wrapped to
an i8, of the first `k + 1` deltas, low nibble first (rules R94, R98). For a payload of 2^31 bytes or more the number of
samples is kept unreduced, where rule R61 gives it 32 bits: the model's choice (notes/assumptions/15.md, DEDUCED). -/
def Obligations.DeltaDecoderSumsTheDeltas : Prop :=
  ∀ (s : State) (looped : Bool),
    let a := s.decAddr.toNat
    let len := s.decLen.toNat
    let rate1024 := s.platform.bank.read32 (a + 4)
    let nibble : Nat → Nat := fun k =>
      if k % 2 = 0 then (s.platform.bank.read (a + 16 + k / 2)).toNat % 16
      else (s.platform.bank.read (a + 16 + k / 2)).toNat / 16
    16 ≤ len ∧ a + len ≤ s.platform.params.bankSize → ∃ pcm : List Byte,
      pcm.length = 2 * (len - 16) ∧
        (∀ k, k < 2 * (len - 16) → pcm[k]? = some (BitVec.ofInt 8
          ((List.range (k + 1)).map fun j =>
            [0, 1, 4, 9, 16, 25, 36, 49, -64, -49, -36, -25, -16, -9, -4, -1].getD (nibble j) 0).sum)) ∧
        exec (.decodeDpcm looped) s = .next
          { s with decResult := some (Sample.mk
              (if rate1024 = 0 then 8000 else rate1024 / 1024) (s.platform.bank.read32 (a + 8)) (2 * (len - 16)) looped
              true pcm) }

/-! ## RENDER -/

/-- RENDER completes for every `N` when there is a rate, emits exactly `N` frames after those already there, and emits
none and changes nothing for `N = 0`; how the stream is cut into buffers cannot be told: `m + n` frames at once leave the
state and the frames of `m` and then `n` (rules R180, R181, R184). -/
def Obligations.RenderCompletesAndMayBeCut : Prop :=
  ∀ (s : State) (rate : Rat), s.sampleRate = some rate →
    (∀ n : Word32, ∃ (t : State) (frames : List Frame), exec (.render n) s = .next t ∧ frames.length = n.toNat ∧
      t.audio = s.audio ++ frames) ∧
    exec (.render 0) s = .next s ∧
    ∀ (m n k : Word32) (t : State), m.toNat + n.toNat = k.toNat → exec (.render m) s = .next t →
      exec (.render n) t = exec (.render k) s

/-- In exact reals, over a RENDER of `n` frames the accumulator gains `n` and loses `SAMPLES_PER_GBA_FRAME` once per tick, at most once per
frame, and with at least one sample per GBA frame it stays below `SAMPLES_PER_GBA_FRAME` (rules R183, R184). -/
def Obligations.FrameAccumulatorCountsTheTicks : Prop :=
  ∀ (s t : State) (rate : Rat) (n : Word32), s.sampleRate = some rate →
    s.platform.params.fp = .exact → exec (.render n) s = .next t →
    (∃ ticks : Nat, ticks ≤ n.toNat ∧
      t.frameAcc = s.frameAcc + n.toNat - ticks * (rate / (597275 / 10000))) ∧
    (1 ≤ rate / (597275 / 10000) → 0 ≤ s.frameAcc → s.frameAcc < rate / (597275 / 10000) →
      0 ≤ t.frameAcc ∧ t.frameAcc < rate / (597275 / 10000))

/-- Until the next GBA frame tick is due, RENDER changes no channel, and of a slot only the oscillator's position, phase,
timer, register and level, and `active` and `phase` where a DirectSound voice ends: no other field, so no envelope field,
no step, no pitch-bend copy (rules R145, R184, R186; in exact reals). -/
def Obligations.BetweenTicksOnlyOscillatorsMove : Prop :=
  ∀ (s t : State) (rate : Rat) (n : Word32), s.sampleRate = some rate → s.platform.params.fp = .exact →
    s.frameAcc + n.toNat < rate / (597275 / 10000) → exec (.render n) s = .next t →
    t.frameAcc = s.frameAcc + n.toNat ∧ t.ch = s.ch ∧
      ∀ i : Fin 24,
        t.v[i.val] =
          { s.v[i.val] with
            active := (t.v[i.val]).active
            phase := (t.v[i.val]).phase
            samplePos := (t.v[i.val]).samplePos
            squarePhase := (t.v[i.val]).squarePhase
            lfsr := (t.v[i.val]).lfsr
            noiseTimer := (t.v[i.val]).noiseTimer
            noiseOutput := (t.v[i.val]).noiseOutput } ∧
        (((t.v[i.val]).active = (s.v[i.val]).active ∧ (t.v[i.val]).phase = (s.v[i.val]).phase) ∨
          ((readVoice s.platform (s.v[i.val]).voiceRef).kind = .directSound ∧
            (t.v[i.val]).active = false ∧ (t.v[i.val]).phase = .off)) ∧
        ((s.v[i.val]).active = false → t.v[i.val] = s.v[i.val])

/-- One frame in which a tick is due: every channel takes one LFO step and nothing else; every active slot one envelope step,
after which only the end of a DirectSound voice, in the generator's step of the same frame, can still change its activity
and its phase; and the one step that the voice's kind uses is recomputed, by the formula of the kind, from the new LFO
output if the channel is in vibrato, that output changed, the voice still sounds and is no rhythm voice, while the steps of
a voice outside vibrato, on an unchanged output, switched off by its envelope or of a rhythm voice stay (rules R184, R185,
R240 to R249; in exact reals). -/
def Obligations.DueTickStepsLfoAndEnvelope : Prop :=
  ∀ (s t : State) (rate : Rat), s.sampleRate = some rate → s.platform.params.fp = .exact →
    0 < s.platform.params.refHz → rate / (597275 / 10000) ≤ s.frameAcc + 1 →
    exec (.render 1) s = .next t →
    t.frameAcc = s.frameAcc + 1 - rate / (597275 / 10000) ∧
      (∀ c : Fin 16, t.ch[c.val] = { s.ch[c.val] with modState := lfoStep (s.ch[c.val]).modState }) ∧
      ∀ i : Fin 24,
        let v := s.v[i.val]
        let vo := readVoice s.platform v.voiceRef
        let w := envelopeStep vo v
        let m := (s.ch[v.channel.val]).modState
        let total : Rat := v.pitchBend * 256 + (m.fineTune.toInt : Rat) * 4 + 16 * ((lfoStep m).modM.toInt : Rat)
        (v.active = false → t.v[i.val] = v) ∧
        (v.active = true →
          (t.v[i.val]).envelopeVolume = w.envelopeVolume ∧ (t.v[i.val]).envelopeCounter = w.envelopeCounter ∧
          (t.v[i.val]).pseudoEchoLen = w.pseudoEchoLen ∧ (w.active = false → (t.v[i.val]).active = false) ∧
          (((t.v[i.val]).active = w.active ∧ (t.v[i.val]).phase = w.phase) ∨
            (vo.kind = .directSound ∧ (t.v[i.val]).active = false ∧ (t.v[i.val]).phase = .off)) ∧
          (vo.kind ≠ .directSound → (t.v[i.val]).active = w.active ∧ (t.v[i.val]).phase = w.phase) ∧
          ((w.active = false ∨ m.modType ≠ 0 ∨ (lfoStep m).modM = m.modM ∨ v.isRhythm = true) →
            (t.v[i.val]).sampleStep = v.sampleStep ∧ (t.v[i.val]).squarePhaseInc = v.squarePhaseInc ∧
              (t.v[i.val]).noiseInterval = v.noiseInterval) ∧
          (w.active = true → m.modType = 0 → (lfoStep m).modM ≠ m.modM → v.isRhythm = false →
            ∃ u : Slot, Slot.retuned s.platform rate (v.note.toNat : Int) total w u ∧
              (t.v[i.val]).sampleStep = u.sampleStep ∧ (t.v[i.val]).squarePhaseInc = u.squarePhaseInc ∧
              (t.v[i.val]).noiseInterval = u.noiseInterval))

/-- One frame, whatever slots are active. First the tick, if one is due, leaves a state `u`: the accumulator, the channels
(one LFO step each) and the active slots (one envelope step, retuned where the vibrato moved) as it has them, all else
untouched; with no tick due only the accumulator moves (rules R184, R185, R193). Then every voice that is active in `u`
takes its generator's step, and each side of the frame is the clipped sum, in slot order, of one term for each of them: the
generator's output times the envelope, velocity, tremolo and volume factors and the master gain, on the pan position (moved
and clamped in auto-pan); an inactive slot adds nothing and is untouched (rules R187 to R192; in exact reals). That
generator and its output are, kind by kind, the ones that the operation VOICE of the record's kind runs and delivers on that
slot (rule R145), of which the statements on the generators say what they are. -/
def Obligations.OneVoiceIsMixedByItsGains : Prop :=
  (∀ (s : State) (i : Fin 24), (s.v[i.val]).active = true →
    ∀ row ∈ [(Kind.directSound, Instr.voiceDirectsound), (.square1, .voiceSquare1), (.square2, .voiceSquare2),
        (.progWave, .voiceProgwave), (.noise, .voiceNoise)],
      (readVoice s.platform (s.v[i.val]).voiceRef).kind = row.1 →
        exec row.2 { s with genSlot := i } = .next
          { s with
            genSlot := i
            v := s.v.set i.val (osc s.platform s.v[i.val]).1
            genOut := (osc s.platform s.v[i.val]).2 }) ∧
  ∀ (s : State) (rate : Rat), s.sampleRate = some rate → s.platform.params.fp = .exact →
    ∃ (u : State) (vs : Vector Slot 24) (frame : Frame),
      (s.frameAcc + 1 < rate / (597275 / 10000) → u = { s with frameAcc := s.frameAcc + 1 }) ∧
      (rate / (597275 / 10000) ≤ s.frameAcc + 1 →
        u = { s with frameAcc := s.frameAcc + 1 - rate / (597275 / 10000), ch := u.ch, v := u.v } ∧
        (∀ c : Fin 16, u.ch[c.val] = { s.ch[c.val] with modState := lfoStep (s.ch[c.val]).modState }) ∧
        ∀ i : Fin 24,
          let v := s.v[i.val]
          let w := envelopeStep (readVoice s.platform v.voiceRef) v
          let m := (s.ch[v.channel.val]).modState
          let total : Rat := v.pitchBend * 256 + (m.fineTune.toInt : Rat) * 4 + 16 * ((lfoStep m).modM.toInt : Rat)
          (v.active = false → u.v[i.val] = v) ∧
          (v.active = true →
            ((w.active = false ∨ m.modType ≠ 0 ∨ (lfoStep m).modM = m.modM ∨ v.isRhythm = true) → u.v[i.val] = w) ∧
            (w.active = true → m.modType = 0 → (lfoStep m).modM ≠ m.modM → v.isRhythm = false →
              0 < s.platform.params.refHz →
              Slot.retuned s.platform rate (v.note.toNat : Int) total w u.v[i.val]))) ∧
      exec (.render 1) s = .next { u with v := vs, audio := s.audio ++ [frame] } ∧
      (∀ i : Fin 24, vs[i.val] = if (u.v[i.val]).active then (osc s.platform u.v[i.val]).1 else u.v[i.val]) ∧
      (let sounding : List (Fin 24) := (List.finRange 24).filter fun i => (u.v[i.val]).active
       let gain : Fin 24 → Pow2Sum := fun i =>
         let v := u.v[i.val]
         let x := u.ch[v.channel.val]
         let factor : Rat :=
           (v.envelopeVolume : Rat) / (if v.isCgbVoice then 15 else 255) * ((v.velocity.toNat : Rat) / 127)
             * (if x.modState.modType = 1 then ((x.modState.modM.toInt : Rat) + 128) / 128 else 1) * x.volume
         ((osc s.platform v).2.scale factor).scale (1 / 8)
       let place : Fin 24 → Rat := fun i =>
         let v := u.v[i.val]
         let x := u.ch[v.channel.val]
         if x.modState.modType = 2 then min (max (v.pan + (x.modState.modM.toInt : Rat) / 256) 0) 1 else v.pan
       frame.left = .clip (sounding.map fun i => ⟨gain i, place i⟩) ∧
       frame.right = .clip (sounding.map fun i => ⟨gain i, 1 - place i⟩))

/-- With no active voice RENDER emits silence and moves no slot, and a voice at velocity 0 adds 0 to the mix
(rules R176, R187, R188; in exact reals). -/
def Obligations.SilenceWithoutVoices : Prop :=
  (∀ (s t : State) (n : Word32), s.platform.params.fp = .exact → (∀ i : Fin 24, (s.v[i.val]).active = false) →
    exec (.render n) s = .next t → t.v = s.v ∧ t.audio = s.audio ++ List.replicate n.toNat ⟨.clip [], .clip []⟩) ∧
  ∀ (pf : Platform) (chs : Vector Channel 16) (v : Slot), pf.params.fp = .exact → v.velocity = 0 →
    ∀ k ∈ (mixVoice pf chs v).2, k.gain = .zero

/-- In exact reals every frame that RENDER adds to the audio port is a pair of clipped sums, so both its sides are in
[-1, +1] (rule R192); a clipped sum is the sum where that is in [-1, +1]; and the two gains of a voice are of equal power
(rules R31, R166). That a sample is kept as a clipped sum and the gains as one pan position are the model's own forms
(notes/assumptions/9.md, DESIGN CHOICE, and 10.md, DEDUCED). -/
def Obligations.AudioIsClipped : Prop :=
  (∀ (s t : State) (n : Word32), s.platform.params.fp = .exact → exec (.render n) s = .next t →
    ∀ f ∈ t.audio.drop s.audio.length,
      (∃ l r : List AudioTerm, f = ⟨.clip l, .clip r⟩) ∧
        -1 ≤ f.left.toReal ∧ f.left.toReal ≤ 1 ∧ -1 ≤ f.right.toReal ∧ f.right.toReal ≤ 1) ∧
    (∀ v : Slot, v.panL ^ 2 + v.panR ^ 2 = 1) ∧
    ∀ terms : List AudioTerm, |(terms.map AudioTerm.toReal).sum| ≤ 1 →
      (Level.clip terms).toReal = (terms.map AudioTerm.toReal).sum

/-! ## Invariants -/

/-- Every step keeps "`active = false` exactly when `phase = Off`" (rule R33 (b)). -/
def Obligations.StepKeepsThePoolConsistent : Prop :=
  ∀ s t : State, s.poolConsistent → step s = .next t → t.poolConsistent

/-- Every step keeps the envelope volumes in range: 0..15 for CGB voices, 0..255 for DirectSound voices
(rules R33 (c), R231). -/
def Obligations.StepKeepsTheEnvelopesInRange : Prop :=
  ∀ s t : State, s.envelopesInRange → step s = .next t → t.envelopesInRange

/-- Every step keeps each active voice's bend equal to its channel's (rule R34). -/
def Obligations.StepKeepsTheBendsTogether : Prop :=
  ∀ s t : State, s.bendsAgree → step s = .next t → t.bendsAgree

/-- Every step keeps the rate greater than 0, the accumulator not negative, volumes and pans in 0..1, and every active
slot on a generator of its record's kind, a noise slot with an interval greater than 0 (rules R22, R23, R26, R30,
R145), in exact reals. -/
def Obligations.StepKeepsTheEngineLegal : Prop :=
  ∀ s t : State, s.platform.params.fp = .exact → s.clocksLegal → s.mixLegal → s.generatorsLegal → step s = .next t →
    t.clocksLegal ∧ t.mixLegal ∧ t.generatorsLegal
end

