-- ==== Sys2Proof/Laws/Decode.lean ====
section
/-! SUPPORT. The decoder and the encoder take words apart and put them together without loss. -/

namespace Sys2Proof

/-- The fields of an assembled word. -/
@[simp] theorem splitWord_joinWord (f : Fields) : splitWord (joinWord f) = f := by
  obtain ⟨op, rA, r, ch, rB, a, rC, b, w⟩ := f
  simp only [splitWord, joinWord, Fields.mk.injEq]
  refine ⟨?_, ?_, ?_, ?_, ?_, ?_, ?_, ?_, ?_⟩ <;>
  · apply BitVec.eq_of_getLsbD_eq
    intro i hi
    simp only [BitVec.getLsbD_extractLsb', BitVec.getLsbD_append, hi, decide_true, Bool.true_and]
    repeat (first | rw [if_pos (by omega)] | rw [if_neg (by omega)])
    congr 1
    omega

/-- Every word is assembled from its fields. -/
@[simp] theorem joinWord_splitWord (c : Word64) : joinWord (splitWord c) = c := by
  apply BitVec.eq_of_getLsbD_eq
  intro i hi
  simp only [splitWord, joinWord, BitVec.getLsbD_extractLsb', BitVec.getLsbD_append]
  split_ifs <;> (rw [decide_eq_true (by omega), Bool.true_and]; congr 1; omega)

/-- An assembled word decodes by its fields. -/
theorem decodeCommand_joinWord (f : Fields) :
    decodeCommand (joinWord f) =
      if f.rsvA = 0 ∧ f.rsvB = 0 ∧ f.rsvC = 0 then decodeFields f else .error .reservedBits := by
  simp only [decodeCommand, splitWord_joinWord]

/-- A word with no reserved bit set decodes by its live fields. -/
@[simp] theorem decodeCommand_commandWord (op : BitVec 4) (r : BitVec 1) (ch : Byte) (a b : BitVec 7) (w : Word32) :
    decodeCommand (commandWord op r ch a b w) = decodeFields ⟨op, 0, r, ch, 0, a, 0, b, w⟩ := by
  simp [commandWord, decodeCommand_joinWord]

/-- The controllers that have no row of their own have none of the eleven numbers. -/
theorem unnamed_controller_ne :
    ∀ c : BitVec 7, namedControllers.contains c = false → c.toNat ≠ 1 ∧ c.toNat ≠ 6 ∧ c.toNat ≠ 7 ∧ c.toNat ≠ 10 ∧
      c.toNat ≠ 21 ∧ c.toNat ≠ 22 ∧ c.toNat ≠ 24 ∧ c.toNat ≠ 26 ∧ c.toNat ≠ 29 ∧ c.toNat ≠ 30 ∧ c.toNat ≠ 123 := by
  decide

/-- A controller with no row of its own selects CC_OTHER. -/
theorem ccInstr_unnamed (ch : Byte) (c v : BitVec 7) (h : namedControllers.contains c = false) :
    ccInstr ch c v = .ccOther ch c v := by
  have hc := unnamed_controller_ne c h
  unfold ccInstr
  split <;> first | rfl | (exfalso; omega)

/-- The two selector bits of a flags word. -/
theorem flagsWord_bits (compressed looped : Bool) :
    flagsCompressed (flagsWord compressed looped) = compressed ∧
      flagsLooped (flagsWord compressed looped) = looped := by
  cases compressed <;> cases looped <;> decide

end Sys2Proof
end

