-- ==== Sys2Proof/Laws/Exact.lean ====
section
/-! SUPPORT. Rational numbers among the exact reals: their canonical form, sums, products and differences;
products and inverses of monomials. -/

namespace Sys2Proof

/-- A rational number is one term with exponent 0, or no term. -/
theorem Pow2Sum.ofRat_eq (q : Rat) : Pow2Sum.ofRat q = ⟨if q = 0 then [] else [⟨0, q⟩]⟩ := by
  have h : Rat.floor 0 = 0 := rfl
  simp [h, Pow2Sum.ofRat, Pow2Sum.monomial, Pow2Sum.insertTerm, twoPow]

@[simp] theorem Pow2Sum.ofRat_zero : Pow2Sum.ofRat 0 = .zero := by simp [Pow2Sum.ofRat_eq, Pow2Sum.zero]

/-- Adding no term. -/
@[simp] theorem Pow2Sum.zero_add (x : Pow2Sum) : Pow2Sum.zero.add x = x := rfl

/-- The sum of two rational numbers. -/
theorem Pow2Sum.ofRat_add (p q : Rat) : (Pow2Sum.ofRat p).add (.ofRat q) = .ofRat (p + q) := by
  by_cases hp : p = 0
  · simp [hp]
  · by_cases hq : q = 0
    · simp [hp, hq, Pow2Sum.ofRat_eq, Pow2Sum.add, Pow2Sum.insertTerm]
    · simp [hp, hq, Pow2Sum.ofRat_eq, Pow2Sum.add, Pow2Sum.insertTerm]

/-- The product of two rational numbers. -/
theorem Pow2Sum.ofRat_scale (p q : Rat) : (Pow2Sum.ofRat q).scale p = .ofRat (p * q) := by
  by_cases hp : p = 0
  · simp [hp, Pow2Sum.scale]
  · by_cases hq : q = 0
    · simp [hp, hq, Pow2Sum.scale, Pow2Sum.zero]
    · simp [hp, hq, Pow2Sum.ofRat_eq, Pow2Sum.scale]

/-- The difference of two rational numbers. -/
theorem Pow2Sum.ofRat_sub (p q : Rat) : (Pow2Sum.ofRat p).sub (.ofRat q) = .ofRat (p - q) := by
  rw [Pow2Sum.sub, Pow2Sum.ofRat_scale, Pow2Sum.ofRat_add]
  congr 1
  ring

/-- `2^n` is the power. -/
theorem twoPow_eq (n : Int) : twoPow n = (2 : Rat) ^ n := by
  unfold twoPow
  split
  · rename_i h
    rw [Nat.cast_pow, ← zpow_natCast, Int.toNat_of_nonneg h]
    rfl
  · rename_i h
    rw [Nat.cast_pow, ← zpow_natCast, Int.toNat_of_nonneg (by omega), zpow_neg]
    simp

/-- A monomial is one term, or no term. -/
theorem Pow2Sum.monomial_eq (q e : Rat) :
    Pow2Sum.monomial q e = ⟨if q = 0 then [] else [⟨e - e.floor, q * 2 ^ e.floor⟩]⟩ := by
  by_cases h : q = 0
  · simp [Pow2Sum.monomial, Pow2Sum.insertTerm, h]
  · have h2 : (2 : Rat) ^ e.floor ≠ 0 := zpow_ne_zero _ (by norm_num)
    simp [Pow2Sum.monomial, Pow2Sum.insertTerm, twoPow_eq, h, h2]

@[simp] theorem Pow2Sum.monomial_zero (e : Rat) : Pow2Sum.monomial 0 e = .zero := by
  simp [Pow2Sum.monomial_eq, Pow2Sum.zero]

/-- Factors of two may stand in the coefficient or in the exponent. -/
theorem Pow2Sum.monomial_shift (q e : Rat) (n : Int) :
    Pow2Sum.monomial (q * 2 ^ n) (e - n) = Pow2Sum.monomial q e := by
  by_cases h : q = 0
  · simp [h]
  · have h2 : (2 : Rat) ^ n ≠ 0 := zpow_ne_zero _ (by norm_num)
    have hf : (e - (n : Rat)).floor = e.floor - n := Int.floor_sub_intCast e n
    have hz : (2 : Rat) ^ n * 2 ^ (e.floor - n) = 2 ^ e.floor := by
      rw [← zpow_add₀ (by norm_num)]
      congr 1
      ring
    simp only [Pow2Sum.monomial_eq, h, mul_ne_zero h h2, hf, if_false, mul_assoc, hz]
    congr 3
    push_cast
    ring

/-- Adding nothing to a monomial. -/
@[simp] theorem Pow2Sum.monomial_add_zero (q e : Rat) : (Pow2Sum.monomial q e).add .zero = .monomial q e := by
  by_cases h : q = 0
  · simp [h]
  · have h2 : (2 : Rat) ^ e.floor ≠ 0 := zpow_ne_zero _ (by norm_num)
    simp [Pow2Sum.monomial_eq, h, Pow2Sum.add, Pow2Sum.zero, Pow2Sum.insertTerm, h2]

/-- The product of two monomials. -/
theorem Pow2Sum.monomial_mul (a e b f : Rat) :
    (Pow2Sum.monomial a e).mul (.monomial b f) = .monomial (a * b) (e + f) := by
  by_cases ha : a = 0
  · simp [ha, Pow2Sum.mul, Pow2Sum.zero]
  · by_cases hb : b = 0
    · simp [ha, hb, Pow2Sum.mul, Pow2Sum.mulTerm, Pow2Sum.monomial_eq, Pow2Sum.zero, Pow2Sum.add]
    · have h : (Pow2Sum.monomial a e).mul (.monomial b f) =
          .monomial (a * 2 ^ e.floor * (b * 2 ^ f.floor)) (e - e.floor + (f - f.floor)) := by
        rw [Pow2Sum.monomial_eq a e, Pow2Sum.monomial_eq b f]
        simp [ha, hb, Pow2Sum.mul, Pow2Sum.mulTerm]
      rw [h, ← Pow2Sum.monomial_shift (a * b) (e + f) (e.floor + f.floor), zpow_add₀ (by norm_num)]
      congr 1
      · ring
      · push_cast
        ring

/-- The inverse of a monomial. -/
theorem Pow2Sum.monomial_inv {q : Rat} (hq : q ≠ 0) (e : Rat) :
    (Pow2Sum.monomial q e).inv = .monomial (1 / q) (-e) := by
  have h2 : (2 : Rat) ^ e.floor ≠ 0 := zpow_ne_zero _ (by norm_num)
  rw [← Pow2Sum.monomial_shift (1 / q) (-e) (-e.floor)]
  simp only [Pow2Sum.monomial_eq q e, hq, if_false, Pow2Sum.inv]
  congr 1
  · rw [zpow_neg]
    field_simp
  · push_cast
    ring

/-- The product of a monomial with a rational number. -/
theorem Pow2Sum.monomial_scale (p q e : Rat) : (Pow2Sum.monomial q e).scale p = .monomial (p * q) e := by
  by_cases hp : p = 0
  · simp [hp, Pow2Sum.scale]
  · by_cases hq : q = 0
    · simp [hq, Pow2Sum.scale, Pow2Sum.zero]
    · simp [Pow2Sum.monomial_eq, hp, hq, Pow2Sum.scale, mul_assoc]

/-- Products with two rational numbers are the product with their product. -/
theorem Pow2Sum.scale_scale (p q : Rat) (x : Pow2Sum) : (x.scale p).scale q = x.scale (p * q) := by
  by_cases hp : p = 0
  · simp [hp, Pow2Sum.scale, Pow2Sum.zero]
  · by_cases hq : q = 0
    · simp [hq, Pow2Sum.scale]
    · simp [hp, hq, Pow2Sum.scale, mul_comm, mul_left_comm]

@[simp] theorem Pow2Sum.scale_zero (x : Pow2Sum) : x.scale 0 = .zero := by simp [Pow2Sum.scale]

end Sys2Proof
end

