-- ==== Sys2Proof/Laws/Fp.lean ====
section
/-! SUPPORT. The operations of `FP` with exact reals are those of the numbers. -/

namespace Sys2Proof.Machine

@[simp] theorem Fp.addQ_exact (x y : Rat) : Fp.exact.addQ x y = x + y := rfl
@[simp] theorem Fp.subQ_exact (x y : Rat) : Fp.exact.subQ x y = x - y := rfl
@[simp] theorem Fp.mulQ_exact (x y : Rat) : Fp.exact.mulQ x y = x * y := rfl
@[simp] theorem Fp.divQ_exact (x y : Rat) : Fp.exact.divQ x y = x / y := rfl
@[simp] theorem Fp.floorQ_exact (x : Rat) : Fp.exact.floorQ x = x.floor := rfl
@[simp] theorem Fp.toF32Q_exact (x : Rat) : Fp.exact.toF32Q x = x := rfl
@[simp] theorem Fp.add_exact (x y : Pow2Sum) : Fp.exact.add x y = x.add y := rfl
@[simp] theorem Fp.sub_exact (x y : Pow2Sum) : Fp.exact.sub x y = x.sub y := rfl
@[simp] theorem Fp.mul_exact (x y : Pow2Sum) : Fp.exact.mul x y = x.mul y := rfl
@[simp] theorem Fp.div_exact (x y : Pow2Sum) : Fp.exact.div x y = x.mul y.inv := rfl
@[simp] theorem Fp.scale_exact (q : Rat) (x : Pow2Sum) : Fp.exact.scale q x = x.scale q := rfl
@[simp] theorem Fp.quot_exact (x : Pow2Sum) (q : Rat) : Fp.exact.quot x q = x.scale (1 / q) := rfl
@[simp] theorem Fp.pow2_exact (e : Rat) : Fp.exact.pow2 e = .monomial 1 e := rfl
@[simp] theorem Fp.floor_exact (x : Pow2Sum) : Fp.exact.floor x = x.floor := rfl
@[simp] theorem Fp.basePan_exact (p : Rat) : Fp.exact.basePan p = p := rfl

/-- The fraction, in exact reals (rule R12). -/
theorem Fp.frac_exact (x : Pow2Sum) : Fp.exact.frac x = x.sub (.ofRat x.floor) := rfl

/-- The remainder, in exact reals (rule R12). -/
theorem Fp.modNat_exact (x : Pow2Sum) (n : Nat) :
    Fp.exact.modNat x n = x.sub (.ofRat (n * (x.scale (1 / (n : Rat))).floor)) := rfl

end Sys2Proof.Machine
end

