-- ==== Sys2Proof/Laws/State.lean ====
section
/-! SUPPORT. One lemma per field of the state for every named update, and the elements of mapped and updated
vectors. -/

namespace Sys2Proof.Machine

@[simp] theorem getElem_mapVec {α β : Type} {n : Nat} (f : α → β) (xs : Vector α n) (i : Nat) (h : i < n) :
    (mapVec f xs)[i] = f xs[i] := by
  simp [mapVec]

@[simp] theorem toList_mapVec {α β : Type} {n : Nat} (f : α → β) (xs : Vector α n) :
    (mapVec f xs).toList = xs.toList.map f := rfl

/-- Two vectors with the same elements are equal. -/
theorem vec_ext {α : Type} {n : Nat} {xs ys : Vector α n} (h : ∀ i : Fin n, xs[i.val] = ys[i.val]) : xs = ys := by
  apply Vector.ext
  intro i hi
  exact h ⟨i, hi⟩

/-- A function that changes no element changes no vector. -/
theorem mapVec_id {α : Type} {n : Nat} (f : α → α) (xs : Vector α n) (h : ∀ i : Fin n, f xs[i.val] = xs[i.val]) :
    mapVec f xs = xs := by
  apply vec_ext
  intro i
  simp [h i]

/-- The elements of an updated vector. -/
theorem getElem_setVec {α : Type} {n : Nat} (xs : Vector α n) (i j : Fin n) (x : α) :
    (xs.set i.val x)[j.val] = if i = j then x else xs[j.val] := by
  rw [Vector.getElem_set]
  simp [Fin.ext_iff]

@[simp] theorem State.withChannels_sampleRate (s : State) (cs : Vector Channel 16) : (s.withChannels cs).sampleRate = s.sampleRate := rfl
@[simp] theorem State.withChannels_frameAcc (s : State) (cs : Vector Channel 16) : (s.withChannels cs).frameAcc = s.frameAcc := rfl
@[simp] theorem State.withChannels_triggerCounter (s : State) (cs : Vector Channel 16) : (s.withChannels cs).triggerCounter = s.triggerCounter := rfl
@[simp] theorem State.withChannels_lock (s : State) (cs : Vector Channel 16) : (s.withChannels cs).lock = s.lock := rfl
@[simp] theorem State.withChannels_ch (s : State) (cs : Vector Channel 16) : (s.withChannels cs).ch = cs := rfl
@[simp] theorem State.withChannels_v (s : State) (cs : Vector Channel 16) : (s.withChannels cs).v = s.v := rfl
@[simp] theorem State.withChannels_platform (s : State) (cs : Vector Channel 16) : (s.withChannels cs).platform = s.platform := rfl
@[simp] theorem State.withChannels_hostQueue (s : State) (cs : Vector Channel 16) : (s.withChannels cs).hostQueue = s.hostQueue := rfl
@[simp] theorem State.withChannels_audioQueue (s : State) (cs : Vector Channel 16) : (s.withChannels cs).audioQueue = s.audioQueue := rfl
@[simp] theorem State.withChannels_arbitrations (s : State) (cs : Vector Channel 16) : (s.withChannels cs).arbitrations = s.arbitrations := rfl
@[simp] theorem State.withChannels_audio (s : State) (cs : Vector Channel 16) : (s.withChannels cs).audio = s.audio := rfl
@[simp] theorem State.withChannels_request (s : State) (cs : Vector Channel 16) : (s.withChannels cs).request = s.request := rfl
@[simp] theorem State.withChannels_decAddr (s : State) (cs : Vector Channel 16) : (s.withChannels cs).decAddr = s.decAddr := rfl
@[simp] theorem State.withChannels_decLen (s : State) (cs : Vector Channel 16) : (s.withChannels cs).decLen = s.decLen := rfl
@[simp] theorem State.withChannels_decResult (s : State) (cs : Vector Channel 16) : (s.withChannels cs).decResult = s.decResult := rfl
@[simp] theorem State.withChannels_genSlot (s : State) (cs : Vector Channel 16) : (s.withChannels cs).genSlot = s.genSlot := rfl
@[simp] theorem State.withChannels_genOut (s : State) (cs : Vector Channel 16) : (s.withChannels cs).genOut = s.genOut := rfl

@[simp] theorem State.withSlots_sampleRate (s : State) (vs : Vector Slot 24) : (s.withSlots vs).sampleRate = s.sampleRate := rfl
@[simp] theorem State.withSlots_frameAcc (s : State) (vs : Vector Slot 24) : (s.withSlots vs).frameAcc = s.frameAcc := rfl
@[simp] theorem State.withSlots_triggerCounter (s : State) (vs : Vector Slot 24) : (s.withSlots vs).triggerCounter = s.triggerCounter := rfl
@[simp] theorem State.withSlots_lock (s : State) (vs : Vector Slot 24) : (s.withSlots vs).lock = s.lock := rfl
@[simp] theorem State.withSlots_ch (s : State) (vs : Vector Slot 24) : (s.withSlots vs).ch = s.ch := rfl
@[simp] theorem State.withSlots_v (s : State) (vs : Vector Slot 24) : (s.withSlots vs).v = vs := rfl
@[simp] theorem State.withSlots_platform (s : State) (vs : Vector Slot 24) : (s.withSlots vs).platform = s.platform := rfl
@[simp] theorem State.withSlots_hostQueue (s : State) (vs : Vector Slot 24) : (s.withSlots vs).hostQueue = s.hostQueue := rfl
@[simp] theorem State.withSlots_audioQueue (s : State) (vs : Vector Slot 24) : (s.withSlots vs).audioQueue = s.audioQueue := rfl
@[simp] theorem State.withSlots_arbitrations (s : State) (vs : Vector Slot 24) : (s.withSlots vs).arbitrations = s.arbitrations := rfl
@[simp] theorem State.withSlots_audio (s : State) (vs : Vector Slot 24) : (s.withSlots vs).audio = s.audio := rfl
@[simp] theorem State.withSlots_request (s : State) (vs : Vector Slot 24) : (s.withSlots vs).request = s.request := rfl
@[simp] theorem State.withSlots_decAddr (s : State) (vs : Vector Slot 24) : (s.withSlots vs).decAddr = s.decAddr := rfl
@[simp] theorem State.withSlots_decLen (s : State) (vs : Vector Slot 24) : (s.withSlots vs).decLen = s.decLen := rfl
@[simp] theorem State.withSlots_decResult (s : State) (vs : Vector Slot 24) : (s.withSlots vs).decResult = s.decResult := rfl
@[simp] theorem State.withSlots_genSlot (s : State) (vs : Vector Slot 24) : (s.withSlots vs).genSlot = s.genSlot := rfl
@[simp] theorem State.withSlots_genOut (s : State) (vs : Vector Slot 24) : (s.withSlots vs).genOut = s.genOut := rfl

@[simp] theorem State.setChannel_sampleRate (s : State) (c : Fin 16) (x : Channel) : (s.setChannel c x).sampleRate = s.sampleRate := rfl
@[simp] theorem State.setChannel_frameAcc (s : State) (c : Fin 16) (x : Channel) : (s.setChannel c x).frameAcc = s.frameAcc := rfl
@[simp] theorem State.setChannel_triggerCounter (s : State) (c : Fin 16) (x : Channel) : (s.setChannel c x).triggerCounter = s.triggerCounter := rfl
@[simp] theorem State.setChannel_lock (s : State) (c : Fin 16) (x : Channel) : (s.setChannel c x).lock = s.lock := rfl
@[simp] theorem State.setChannel_ch (s : State) (c : Fin 16) (x : Channel) : (s.setChannel c x).ch = s.ch.set c.val x := rfl
@[simp] theorem State.setChannel_v (s : State) (c : Fin 16) (x : Channel) : (s.setChannel c x).v = s.v := rfl
@[simp] theorem State.setChannel_platform (s : State) (c : Fin 16) (x : Channel) : (s.setChannel c x).platform = s.platform := rfl
@[simp] theorem State.setChannel_hostQueue (s : State) (c : Fin 16) (x : Channel) : (s.setChannel c x).hostQueue = s.hostQueue := rfl
@[simp] theorem State.setChannel_audioQueue (s : State) (c : Fin 16) (x : Channel) : (s.setChannel c x).audioQueue = s.audioQueue := rfl
@[simp] theorem State.setChannel_arbitrations (s : State) (c : Fin 16) (x : Channel) : (s.setChannel c x).arbitrations = s.arbitrations := rfl
@[simp] theorem State.setChannel_audio (s : State) (c : Fin 16) (x : Channel) : (s.setChannel c x).audio = s.audio := rfl
@[simp] theorem State.setChannel_request (s : State) (c : Fin 16) (x : Channel) : (s.setChannel c x).request = s.request := rfl
@[simp] theorem State.setChannel_decAddr (s : State) (c : Fin 16) (x : Channel) : (s.setChannel c x).decAddr = s.decAddr := rfl
@[simp] theorem State.setChannel_decLen (s : State) (c : Fin 16) (x : Channel) : (s.setChannel c x).decLen = s.decLen := rfl
@[simp] theorem State.setChannel_decResult (s : State) (c : Fin 16) (x : Channel) : (s.setChannel c x).decResult = s.decResult := rfl
@[simp] theorem State.setChannel_genSlot (s : State) (c : Fin 16) (x : Channel) : (s.setChannel c x).genSlot = s.genSlot := rfl
@[simp] theorem State.setChannel_genOut (s : State) (c : Fin 16) (x : Channel) : (s.setChannel c x).genOut = s.genOut := rfl

@[simp] theorem State.setSlot_sampleRate (s : State) (i : Fin 24) (x : Slot) : (s.setSlot i x).sampleRate = s.sampleRate := rfl
@[simp] theorem State.setSlot_frameAcc (s : State) (i : Fin 24) (x : Slot) : (s.setSlot i x).frameAcc = s.frameAcc := rfl
@[simp] theorem State.setSlot_triggerCounter (s : State) (i : Fin 24) (x : Slot) : (s.setSlot i x).triggerCounter = s.triggerCounter := rfl
@[simp] theorem State.setSlot_lock (s : State) (i : Fin 24) (x : Slot) : (s.setSlot i x).lock = s.lock := rfl
@[simp] theorem State.setSlot_ch (s : State) (i : Fin 24) (x : Slot) : (s.setSlot i x).ch = s.ch := rfl
@[simp] theorem State.setSlot_v (s : State) (i : Fin 24) (x : Slot) : (s.setSlot i x).v = s.v.set i.val x := rfl
@[simp] theorem State.setSlot_platform (s : State) (i : Fin 24) (x : Slot) : (s.setSlot i x).platform = s.platform := rfl
@[simp] theorem State.setSlot_hostQueue (s : State) (i : Fin 24) (x : Slot) : (s.setSlot i x).hostQueue = s.hostQueue := rfl
@[simp] theorem State.setSlot_audioQueue (s : State) (i : Fin 24) (x : Slot) : (s.setSlot i x).audioQueue = s.audioQueue := rfl
@[simp] theorem State.setSlot_arbitrations (s : State) (i : Fin 24) (x : Slot) : (s.setSlot i x).arbitrations = s.arbitrations := rfl
@[simp] theorem State.setSlot_audio (s : State) (i : Fin 24) (x : Slot) : (s.setSlot i x).audio = s.audio := rfl
@[simp] theorem State.setSlot_request (s : State) (i : Fin 24) (x : Slot) : (s.setSlot i x).request = s.request := rfl
@[simp] theorem State.setSlot_decAddr (s : State) (i : Fin 24) (x : Slot) : (s.setSlot i x).decAddr = s.decAddr := rfl
@[simp] theorem State.setSlot_decLen (s : State) (i : Fin 24) (x : Slot) : (s.setSlot i x).decLen = s.decLen := rfl
@[simp] theorem State.setSlot_decResult (s : State) (i : Fin 24) (x : Slot) : (s.setSlot i x).decResult = s.decResult := rfl
@[simp] theorem State.setSlot_genSlot (s : State) (i : Fin 24) (x : Slot) : (s.setSlot i x).genSlot = s.genSlot := rfl
@[simp] theorem State.setSlot_genOut (s : State) (i : Fin 24) (x : Slot) : (s.setSlot i x).genOut = s.genOut := rfl

@[simp] theorem State.mapSlots_sampleRate (s : State) (f : Slot → Slot) : (s.mapSlots f).sampleRate = s.sampleRate := rfl
@[simp] theorem State.mapSlots_frameAcc (s : State) (f : Slot → Slot) : (s.mapSlots f).frameAcc = s.frameAcc := rfl
@[simp] theorem State.mapSlots_triggerCounter (s : State) (f : Slot → Slot) : (s.mapSlots f).triggerCounter = s.triggerCounter := rfl
@[simp] theorem State.mapSlots_lock (s : State) (f : Slot → Slot) : (s.mapSlots f).lock = s.lock := rfl
@[simp] theorem State.mapSlots_ch (s : State) (f : Slot → Slot) : (s.mapSlots f).ch = s.ch := rfl
@[simp] theorem State.mapSlots_v (s : State) (f : Slot → Slot) : (s.mapSlots f).v = mapVec f s.v := rfl
@[simp] theorem State.mapSlots_platform (s : State) (f : Slot → Slot) : (s.mapSlots f).platform = s.platform := rfl
@[simp] theorem State.mapSlots_hostQueue (s : State) (f : Slot → Slot) : (s.mapSlots f).hostQueue = s.hostQueue := rfl
@[simp] theorem State.mapSlots_audioQueue (s : State) (f : Slot → Slot) : (s.mapSlots f).audioQueue = s.audioQueue := rfl
@[simp] theorem State.mapSlots_arbitrations (s : State) (f : Slot → Slot) : (s.mapSlots f).arbitrations = s.arbitrations := rfl
@[simp] theorem State.mapSlots_audio (s : State) (f : Slot → Slot) : (s.mapSlots f).audio = s.audio := rfl
@[simp] theorem State.mapSlots_request (s : State) (f : Slot → Slot) : (s.mapSlots f).request = s.request := rfl
@[simp] theorem State.mapSlots_decAddr (s : State) (f : Slot → Slot) : (s.mapSlots f).decAddr = s.decAddr := rfl
@[simp] theorem State.mapSlots_decLen (s : State) (f : Slot → Slot) : (s.mapSlots f).decLen = s.decLen := rfl
@[simp] theorem State.mapSlots_decResult (s : State) (f : Slot → Slot) : (s.mapSlots f).decResult = s.decResult := rfl
@[simp] theorem State.mapSlots_genSlot (s : State) (f : Slot → Slot) : (s.mapSlots f).genSlot = s.genSlot := rfl
@[simp] theorem State.mapSlots_genOut (s : State) (f : Slot → Slot) : (s.mapSlots f).genOut = s.genOut := rfl

@[simp] theorem State.withRate_sampleRate (s : State) (r : Rat) : (s.withRate r).sampleRate = some r := rfl
@[simp] theorem State.withRate_frameAcc (s : State) (r : Rat) : (s.withRate r).frameAcc = s.frameAcc := rfl
@[simp] theorem State.withRate_triggerCounter (s : State) (r : Rat) : (s.withRate r).triggerCounter = s.triggerCounter := rfl
@[simp] theorem State.withRate_lock (s : State) (r : Rat) : (s.withRate r).lock = s.lock := rfl
@[simp] theorem State.withRate_ch (s : State) (r : Rat) : (s.withRate r).ch = s.ch := rfl
@[simp] theorem State.withRate_v (s : State) (r : Rat) : (s.withRate r).v = s.v := rfl
@[simp] theorem State.withRate_platform (s : State) (r : Rat) : (s.withRate r).platform = s.platform := rfl
@[simp] theorem State.withRate_hostQueue (s : State) (r : Rat) : (s.withRate r).hostQueue = s.hostQueue := rfl
@[simp] theorem State.withRate_audioQueue (s : State) (r : Rat) : (s.withRate r).audioQueue = s.audioQueue := rfl
@[simp] theorem State.withRate_arbitrations (s : State) (r : Rat) : (s.withRate r).arbitrations = s.arbitrations := rfl
@[simp] theorem State.withRate_audio (s : State) (r : Rat) : (s.withRate r).audio = s.audio := rfl
@[simp] theorem State.withRate_request (s : State) (r : Rat) : (s.withRate r).request = s.request := rfl
@[simp] theorem State.withRate_decAddr (s : State) (r : Rat) : (s.withRate r).decAddr = s.decAddr := rfl
@[simp] theorem State.withRate_decLen (s : State) (r : Rat) : (s.withRate r).decLen = s.decLen := rfl
@[simp] theorem State.withRate_decResult (s : State) (r : Rat) : (s.withRate r).decResult = s.decResult := rfl
@[simp] theorem State.withRate_genSlot (s : State) (r : Rat) : (s.withRate r).genSlot = s.genSlot := rfl
@[simp] theorem State.withRate_genOut (s : State) (r : Rat) : (s.withRate r).genOut = s.genOut := rfl

@[simp] theorem State.withTriggerCounter_sampleRate (s : State) (n : BitVec 64) : (s.withTriggerCounter n).sampleRate = s.sampleRate := rfl
@[simp] theorem State.withTriggerCounter_frameAcc (s : State) (n : BitVec 64) : (s.withTriggerCounter n).frameAcc = s.frameAcc := rfl
@[simp] theorem State.withTriggerCounter_triggerCounter (s : State) (n : BitVec 64) : (s.withTriggerCounter n).triggerCounter = n := rfl
@[simp] theorem State.withTriggerCounter_lock (s : State) (n : BitVec 64) : (s.withTriggerCounter n).lock = s.lock := rfl
@[simp] theorem State.withTriggerCounter_ch (s : State) (n : BitVec 64) : (s.withTriggerCounter n).ch = s.ch := rfl
@[simp] theorem State.withTriggerCounter_v (s : State) (n : BitVec 64) : (s.withTriggerCounter n).v = s.v := rfl
@[simp] theorem State.withTriggerCounter_platform (s : State) (n : BitVec 64) : (s.withTriggerCounter n).platform = s.platform := rfl
@[simp] theorem State.withTriggerCounter_hostQueue (s : State) (n : BitVec 64) : (s.withTriggerCounter n).hostQueue = s.hostQueue := rfl
@[simp] theorem State.withTriggerCounter_audioQueue (s : State) (n : BitVec 64) : (s.withTriggerCounter n).audioQueue = s.audioQueue := rfl
@[simp] theorem State.withTriggerCounter_arbitrations (s : State) (n : BitVec 64) : (s.withTriggerCounter n).arbitrations = s.arbitrations := rfl
@[simp] theorem State.withTriggerCounter_audio (s : State) (n : BitVec 64) : (s.withTriggerCounter n).audio = s.audio := rfl
@[simp] theorem State.withTriggerCounter_request (s : State) (n : BitVec 64) : (s.withTriggerCounter n).request = s.request := rfl
@[simp] theorem State.withTriggerCounter_decAddr (s : State) (n : BitVec 64) : (s.withTriggerCounter n).decAddr = s.decAddr := rfl
@[simp] theorem State.withTriggerCounter_decLen (s : State) (n : BitVec 64) : (s.withTriggerCounter n).decLen = s.decLen := rfl
@[simp] theorem State.withTriggerCounter_decResult (s : State) (n : BitVec 64) : (s.withTriggerCounter n).decResult = s.decResult := rfl
@[simp] theorem State.withTriggerCounter_genSlot (s : State) (n : BitVec 64) : (s.withTriggerCounter n).genSlot = s.genSlot := rfl
@[simp] theorem State.withTriggerCounter_genOut (s : State) (n : BitVec 64) : (s.withTriggerCounter n).genOut = s.genOut := rfl

@[simp] theorem State.withFrameAcc_sampleRate (s : State) (x : Rat) : (s.withFrameAcc x).sampleRate = s.sampleRate := rfl
@[simp] theorem State.withFrameAcc_frameAcc (s : State) (x : Rat) : (s.withFrameAcc x).frameAcc = x := rfl
@[simp] theorem State.withFrameAcc_triggerCounter (s : State) (x : Rat) : (s.withFrameAcc x).triggerCounter = s.triggerCounter := rfl
@[simp] theorem State.withFrameAcc_lock (s : State) (x : Rat) : (s.withFrameAcc x).lock = s.lock := rfl
@[simp] theorem State.withFrameAcc_ch (s : State) (x : Rat) : (s.withFrameAcc x).ch = s.ch := rfl
@[simp] theorem State.withFrameAcc_v (s : State) (x : Rat) : (s.withFrameAcc x).v = s.v := rfl
@[simp] theorem State.withFrameAcc_platform (s : State) (x : Rat) : (s.withFrameAcc x).platform = s.platform := rfl
@[simp] theorem State.withFrameAcc_hostQueue (s : State) (x : Rat) : (s.withFrameAcc x).hostQueue = s.hostQueue := rfl
@[simp] theorem State.withFrameAcc_audioQueue (s : State) (x : Rat) : (s.withFrameAcc x).audioQueue = s.audioQueue := rfl
@[simp] theorem State.withFrameAcc_arbitrations (s : State) (x : Rat) : (s.withFrameAcc x).arbitrations = s.arbitrations := rfl
@[simp] theorem State.withFrameAcc_audio (s : State) (x : Rat) : (s.withFrameAcc x).audio = s.audio := rfl
@[simp] theorem State.withFrameAcc_request (s : State) (x : Rat) : (s.withFrameAcc x).request = s.request := rfl
@[simp] theorem State.withFrameAcc_decAddr (s : State) (x : Rat) : (s.withFrameAcc x).decAddr = s.decAddr := rfl
@[simp] theorem State.withFrameAcc_decLen (s : State) (x : Rat) : (s.withFrameAcc x).decLen = s.decLen := rfl
@[simp] theorem State.withFrameAcc_decResult (s : State) (x : Rat) : (s.withFrameAcc x).decResult = s.decResult := rfl
@[simp] theorem State.withFrameAcc_genSlot (s : State) (x : Rat) : (s.withFrameAcc x).genSlot = s.genSlot := rfl
@[simp] theorem State.withFrameAcc_genOut (s : State) (x : Rat) : (s.withFrameAcc x).genOut = s.genOut := rfl

@[simp] theorem State.withDecResult_sampleRate (s : State) (r : Option Sample) : (s.withDecResult r).sampleRate = s.sampleRate := rfl
@[simp] theorem State.withDecResult_frameAcc (s : State) (r : Option Sample) : (s.withDecResult r).frameAcc = s.frameAcc := rfl
@[simp] theorem State.withDecResult_triggerCounter (s : State) (r : Option Sample) : (s.withDecResult r).triggerCounter = s.triggerCounter := rfl
@[simp] theorem State.withDecResult_lock (s : State) (r : Option Sample) : (s.withDecResult r).lock = s.lock := rfl
@[simp] theorem State.withDecResult_ch (s : State) (r : Option Sample) : (s.withDecResult r).ch = s.ch := rfl
@[simp] theorem State.withDecResult_v (s : State) (r : Option Sample) : (s.withDecResult r).v = s.v := rfl
@[simp] theorem State.withDecResult_platform (s : State) (r : Option Sample) : (s.withDecResult r).platform = s.platform := rfl
@[simp] theorem State.withDecResult_hostQueue (s : State) (r : Option Sample) : (s.withDecResult r).hostQueue = s.hostQueue := rfl
@[simp] theorem State.withDecResult_audioQueue (s : State) (r : Option Sample) : (s.withDecResult r).audioQueue = s.audioQueue := rfl
@[simp] theorem State.withDecResult_arbitrations (s : State) (r : Option Sample) : (s.withDecResult r).arbitrations = s.arbitrations := rfl
@[simp] theorem State.withDecResult_audio (s : State) (r : Option Sample) : (s.withDecResult r).audio = s.audio := rfl
@[simp] theorem State.withDecResult_request (s : State) (r : Option Sample) : (s.withDecResult r).request = s.request := rfl
@[simp] theorem State.withDecResult_decAddr (s : State) (r : Option Sample) : (s.withDecResult r).decAddr = s.decAddr := rfl
@[simp] theorem State.withDecResult_decLen (s : State) (r : Option Sample) : (s.withDecResult r).decLen = s.decLen := rfl
@[simp] theorem State.withDecResult_decResult (s : State) (r : Option Sample) : (s.withDecResult r).decResult = r := rfl
@[simp] theorem State.withDecResult_genSlot (s : State) (r : Option Sample) : (s.withDecResult r).genSlot = s.genSlot := rfl
@[simp] theorem State.withDecResult_genOut (s : State) (r : Option Sample) : (s.withDecResult r).genOut = s.genOut := rfl

@[simp] theorem State.emit_sampleRate (s : State) (fs : List Frame) : (s.emit fs).sampleRate = s.sampleRate := rfl
@[simp] theorem State.emit_frameAcc (s : State) (fs : List Frame) : (s.emit fs).frameAcc = s.frameAcc := rfl
@[simp] theorem State.emit_triggerCounter (s : State) (fs : List Frame) : (s.emit fs).triggerCounter = s.triggerCounter := rfl
@[simp] theorem State.emit_lock (s : State) (fs : List Frame) : (s.emit fs).lock = s.lock := rfl
@[simp] theorem State.emit_ch (s : State) (fs : List Frame) : (s.emit fs).ch = s.ch := rfl
@[simp] theorem State.emit_v (s : State) (fs : List Frame) : (s.emit fs).v = s.v := rfl
@[simp] theorem State.emit_platform (s : State) (fs : List Frame) : (s.emit fs).platform = s.platform := rfl
@[simp] theorem State.emit_hostQueue (s : State) (fs : List Frame) : (s.emit fs).hostQueue = s.hostQueue := rfl
@[simp] theorem State.emit_audioQueue (s : State) (fs : List Frame) : (s.emit fs).audioQueue = s.audioQueue := rfl
@[simp] theorem State.emit_arbitrations (s : State) (fs : List Frame) : (s.emit fs).arbitrations = s.arbitrations := rfl
@[simp] theorem State.emit_audio (s : State) (fs : List Frame) : (s.emit fs).audio = s.audio ++ fs := rfl
@[simp] theorem State.emit_request (s : State) (fs : List Frame) : (s.emit fs).request = s.request := rfl
@[simp] theorem State.emit_decAddr (s : State) (fs : List Frame) : (s.emit fs).decAddr = s.decAddr := rfl
@[simp] theorem State.emit_decLen (s : State) (fs : List Frame) : (s.emit fs).decLen = s.decLen := rfl
@[simp] theorem State.emit_decResult (s : State) (fs : List Frame) : (s.emit fs).decResult = s.decResult := rfl
@[simp] theorem State.emit_genSlot (s : State) (fs : List Frame) : (s.emit fs).genSlot = s.genSlot := rfl
@[simp] theorem State.emit_genOut (s : State) (fs : List Frame) : (s.emit fs).genOut = s.genOut := rfl

end Sys2Proof.Machine
end

