-- ==== Sys2Proof/Laws/Memory.lean ====
section
/-! SUPPORT. Bank memory: a write sets one byte, leaves every other byte, and keeps the canonical form. -/

namespace Sys2Proof.Machine

@[simp] theorem Memory.read_nil (a : Nat) : Memory.read [] a = Memory.unlisted := rfl

@[simp] theorem Memory.read_cons (c : Host.Cell) (cs : Memory) (a : Nat) :
    Memory.read (c :: cs) a = if c.1 = a then c.2 else Memory.read cs a := rfl

/-- The empty memory is canonical. -/
theorem Memory.wf_nil : Memory.wf [] := by simp [Memory.wf]

/-- An address below every listed one is unlisted. -/
theorem Memory.read_below (m : Memory) (a : Nat) (h : ∀ c ∈ m, a < c.1) : m.read a = Memory.unlisted := by
  induction m with
  | nil => rfl
  | cons c cs ih =>
    have hc : a < c.1 := h c (by simp)
    rw [Memory.read_cons, if_neg (by omega)]
    exact ih fun d hd => h d (by simp [hd])

/-- Every entry of a written memory is the new one or an old one. -/
theorem Memory.mem_write {m : Memory} {a : Nat} {b : Byte} {c : Host.Cell} (h : c ∈ m.write a b) :
    (c = (a, b) ∧ b ≠ Memory.unlisted) ∨ c ∈ m := by
  induction m with
  | nil =>
    unfold Memory.write at h
    split at h <;> simp_all
  | cons d ds ih =>
    unfold Memory.write at h
    split at h
    · split at h <;> simp_all
    · split at h
      · split at h <;> simp_all
        rcases h with h | h <;> simp [h]
      · rcases List.mem_cons.mp h with h | h
        · simp [h]
        · rcases ih h with h | h <;> simp [h]

/-- A write keeps the canonical form. -/
theorem Memory.wf_write (m : Memory) (a : Nat) (b : Byte) (h : m.wf) : (m.write a b).wf := by
  induction m with
  | nil =>
    unfold Memory.write
    split <;> simp_all [Memory.wf]
  | cons d ds ih =>
    obtain ⟨hs, hv⟩ := h
    have hds : Memory.wf ds := ⟨(List.pairwise_cons.mp hs).2, fun c hc => hv c (by simp [hc])⟩
    have hlow : ∀ c ∈ ds, d.1 < c.1 := (List.pairwise_cons.mp hs).1
    unfold Memory.write
    split
    · split
      · exact ⟨hs, hv⟩
      · rename_i hlt hb
        refine ⟨List.pairwise_cons.mpr ⟨?_, hs⟩, ?_⟩
        · intro c hc
          rcases List.mem_cons.mp hc with rfl | hc
          · exact hlt
          · exact lt_trans hlt (hlow c hc)
        · intro c hc
          rcases List.mem_cons.mp hc with rfl | hc
          · exact hb
          · exact hv c hc
    · split
      · split
        · exact hds
        · rename_i heq hb
          refine ⟨List.pairwise_cons.mpr ⟨?_, hds.1⟩, ?_⟩
          · intro c hc
            have := hlow c hc
            simpa [heq] using this
          · intro c hc
            rcases List.mem_cons.mp hc with rfl | hc
            · exact hb
            · exact hds.2 c hc
      · rename_i hlt hne
        have ih' := ih hds
        refine ⟨List.pairwise_cons.mpr ⟨?_, ih'.1⟩, ?_⟩
        · intro c hc
          rcases Memory.mem_write hc with ⟨rfl, _⟩ | hc
          · simp only; omega
          · exact hlow c hc
        · intro c hc
          rcases List.mem_cons.mp hc with rfl | hc
          · exact hv _ (by simp)
          · exact ih'.2 c hc

/-- Storing a list of bytes keeps the canonical form. -/
theorem Memory.wf_writeBytes (m : Memory) (a : Nat) (bs : List Byte) (h : m.wf) : (m.writeBytes a bs).wf := by
  induction bs generalizing m a with
  | nil => exact h
  | cons b bs ih => exact ih _ _ (Memory.wf_write m a b h)

end Sys2Proof.Machine
end

