-- ==== Sys2Proof/Laws/Ops.lean ====
section
/-! SUPPORT. What each shared operation can do, said once: drops, channel operands, control changes, slot updates, voice
records, generators' steps. -/

namespace Sys2Proof.Machine

/-- A drop changes nothing. -/
theorem drop_next {s t : State} (h : drop s = .next t) : t = s := by
  simp only [drop, Host.Outcome.next.injEq] at h
  exact h.symm

/-- A channel number 0..15 is the channel of that number. -/
theorem channelOf_some {ch : Byte} {c : Fin 16} (h : ch.toNat = c.val) : channelOf ch = some c := by
  have hc := c.isLt
  unfold channelOf
  rw [dif_pos (by omega)]
  exact congrArg some (Fin.ext h)

/-- A channel number above 15 is no channel. -/
theorem channelOf_none {ch : Byte} (h : 15 < ch.toNat) : channelOf ch = none := by
  unfold channelOf
  rw [dif_neg (by omega)]

/-- The channel that a channel number is. -/
theorem channelOf_val {ch : Byte} {c : Fin 16} (h : channelOf ch = some c) : ch.toNat = c.val := by
  unfold channelOf at h
  split at h
  · cases h; rfl
  · cases h

/-- A control change answers a next state: it is dropped, or it writes one channel. -/
theorem controlChange_next {ch : Byte} {f : Channel → Channel} {s t : State} (h : controlChange ch f s = .next t) :
    (15 < ch.toNat ∧ t = s) ∨ ∃ c : Fin 16, ch.toNat = c.val ∧ t = s.setChannel c (f s.ch[c.val]) := by
  unfold controlChange at h
  split at h
  · rename_i hc
    refine .inl ⟨?_, drop_next h⟩
    by_contra hlt
    rw [channelOf_some (c := ⟨ch.toNat, by omega⟩) rfl] at hc
    cases hc
  · rename_i c hc
    cases h
    exact .inr ⟨c, channelOf_val hc, rfl⟩

/-- Applying a function that changes no slot changes nothing. -/
theorem mapSlots_id {s : State} {f : Slot → Slot} (h : ∀ i : Fin 24, f s.v[i.val] = s.v[i.val]) : s.mapSlots f = s := by
  simp only [State.mapSlots, mapVec_id f s.v h]
  rfl

/-- The channel file after one channel is written. -/
theorem setChannel_getElem (s : State) (c d : Fin 16) (x : Channel) :
    ((s.setChannel c x).ch)[d.val] = if c = d then x else s.ch[d.val] :=
  getElem_setVec s.ch c d x

/-- The voice pool after one slot is written. -/
theorem setSlot_getElem (s : State) (i j : Fin 24) (x : Slot) :
    ((s.setSlot i x).v)[j.val] = if i = j then x else s.v[j.val] :=
  getElem_setVec s.v i j x

/-- A record not wholly inside the bank is an Empty voice (rule R54). -/
theorem readVoice_outside {pf : Platform} {ref : Word32} (h : pf.params.bankSize < ref.toNat + 16) :
    readVoice pf ref = emptyVoice := by
  have hc : pf.contains ref.toNat 16 = false := by simp [Platform.contains]; omega
  simp [readVoice, hc]

/-- The kind of a record inside the bank (rules R56, R57). -/
theorem readVoice_kind {pf : Platform} {ref : Word32} (h : ref.toNat + 16 ≤ pf.params.bankSize) :
    (readVoice pf ref).kind = kindOfByte (pf.bank.read ref.toNat) := by
  have hc : pf.contains ref.toNat 16 = true := by simp [Platform.contains, h]
  simp [readVoice, hc]

/-- A step of a generator on an inactive slot changes nothing. -/
theorem stepGenerator_inactive {gen : Slot → Slot × Pow2Sum} {s : State} (h : (s.v[s.genSlot.val]).active = false) :
    stepGenerator gen s = s := by
  simp [stepGenerator, h]

/-- A step of a generator on an active slot writes the slot and the result, and nothing else. -/
theorem stepGenerator_active {gen : Slot → Slot × Pow2Sum} {s : State} (h : (s.v[s.genSlot.val]).active = true) :
    stepGenerator gen s =
      { s with v := s.v.set s.genSlot.val (gen s.v[s.genSlot.val]).1, genOut := (gen s.v[s.genSlot.val]).2 } := by
  simp [stepGenerator, h, State.setSlot, State.withSlots]

end Sys2Proof.Machine
end

