-- ==== Sys2Proof/Laws/Slots.lean ====
section
/-! SUPPORT. What each operation on a slot leaves as it was: pitch updates, envelope steps, generators. -/

namespace Sys2Proof.Machine

/-- `configure` writes the three step fields at most (rule R249). -/
theorem configure_frame (pf : Platform) (rate : Rat) (key : Int) (total : Rat) (v : Slot) :
    configure pf rate key total v =
      { v with
        sampleStep := (configure pf rate key total v).sampleStep
        squarePhaseInc := (configure pf rate key total v).squarePhaseInc
        noiseInterval := (configure pf rate key total v).noiseInterval } := by
  unfold configure
  dsimp only
  cases (readVoice pf v.voiceRef).kind <;> rfl

/-- A pitch update writes the three step fields at most (rule R240). -/
theorem pitchUpdate_frame (pf : Platform) (rate : Rat) (m : ModState) (v : Slot) :
    pitchUpdate pf rate m v =
      { v with
        sampleStep := (pitchUpdate pf rate m v).sampleStep
        squarePhaseInc := (pitchUpdate pf rate m v).squarePhaseInc
        noiseInterval := (pitchUpdate pf rate m v).noiseInterval } := by
  unfold pitchUpdate
  split
  · rfl
  · exact configure_frame _ _ _ _ _

/-- A pitch update leaves a rhythm voice as it is (rule R247). -/
theorem pitchUpdate_rhythm {v : Slot} (h : v.isRhythm = true) (pf : Platform) (rate : Rat) (m : ModState) :
    pitchUpdate pf rate m v = v := by
  simp [pitchUpdate, h]

/-- An echo step counts down, and may go Off (rule R217). -/
theorem echoStep_cases (v : Slot) :
    (v.pseudoEchoLen ≤ 1 ∧ echoStep v = goOff { v with pseudoEchoLen := v.pseudoEchoLen - 1 }) ∨
      (1 < v.pseudoEchoLen ∧ echoStep v = { v with pseudoEchoLen := v.pseudoEchoLen - 1 }) := by
  unfold echoStep
  split
  · exact .inl ⟨by omega, rfl⟩
  · exact .inr ⟨by omega, rfl⟩

/-- The loop of the noise generator writes the timer, the register and the level: with `n` turns taken the register has
been clocked `n` times, and the level is that of its last bit (rules R150, R151, R152). -/
theorem noiseLoop_turns (fp : Fp) (polarity : Bool) (fuel : Nat) (v : Slot) :
    ∃ n ≤ fuel,
      noiseLoop fp polarity fuel v =
        { v with
          noiseTimer := (fun x => fp.subQ x v.noiseInterval)^[n] v.noiseTimer
          lfsr := (clockRegister v.noiseWidth7bit)^[n] v.lfsr
          noiseOutput := if n = 0 then v.noiseOutput
            else noiseLevel polarity (((clockRegister v.noiseWidth7bit)^[n] v.lfsr).getLsbD 0) } := by
  induction fuel generalizing v with
  | zero => exact ⟨0, le_refl _, rfl⟩
  | succ fuel ih =>
    by_cases h : v.noiseInterval ≤ v.noiseTimer
    · obtain ⟨n, hn, hloop⟩ := ih (clockLfsr polarity { v with noiseTimer := fp.subQ v.noiseTimer v.noiseInterval })
      refine ⟨n + 1, by omega, ?_⟩
      rw [noiseLoop, if_pos h, hloop]
      by_cases h0 : n = 0
      · subst h0; rfl
      · simp [clockLfsr, h0]
    · exact ⟨0, Nat.zero_le _, by rw [noiseLoop, if_neg h]; rfl⟩

/-- In exact reals the loop of the noise generator takes all its turns if the timer holds that many intervals
(rule R150). -/
theorem noiseLoop_exact (polarity : Bool) (n : Nat) (v : Slot) (hi : 0 < v.noiseInterval)
    (hn : (n : Rat) * v.noiseInterval ≤ v.noiseTimer) :
    noiseLoop .exact polarity n v =
      { v with
        noiseTimer := v.noiseTimer - n * v.noiseInterval
        lfsr := (clockRegister v.noiseWidth7bit)^[n] v.lfsr
        noiseOutput := if n = 0 then v.noiseOutput
          else noiseLevel polarity (((clockRegister v.noiseWidth7bit)^[n] v.lfsr).getLsbD 0) } := by
  induction n generalizing v with
  | zero => simp [noiseLoop]
  | succ n ih =>
    push_cast at hn
    have hpos : (0 : Rat) ≤ n * v.noiseInterval := by positivity
    rw [noiseLoop, if_pos (by linarith),
      ih (clockLfsr polarity { v with noiseTimer := Fp.exact.subQ v.noiseTimer v.noiseInterval }) hi
        (by simp only [clockLfsr, Fp.subQ_exact]; linarith)]
    by_cases h0 : n = 0
    · subst h0; simp [clockLfsr]
    · simp [clockLfsr, h0]
      ring

/-- The square generator writes its phase (rule R149). -/
theorem oscSquare_fst (fp : Fp) (duty : Byte) (v : Slot) :
    (oscSquare fp duty v).1 = { v with squarePhase := fp.addQ v.squarePhase v.squarePhaseInc } := rfl

/-- The noise generator writes its timer, its register and its level (rule R150). -/
theorem oscNoise_fst (fp : Fp) (polarity : Bool) (v : Slot) :
    (oscNoise fp polarity v).1 =
      { v with
        noiseTimer := (oscNoise fp polarity v).1.noiseTimer
        lfsr := (oscNoise fp polarity v).1.lfsr
        noiseOutput := (oscNoise fp polarity v).1.noiseOutput } := by
  obtain ⟨n, _, h⟩ := noiseLoop_turns fp polarity (noiseTurns fp (fp.addQ v.noiseTimer 1) v.noiseInterval)
    { v with noiseTimer := fp.addQ v.noiseTimer 1 }
  simp only [oscNoise, h]

/-- The programmable-wave generator writes its position at most (rules R153, R154). -/
theorem oscProgWave_fst (fp : Fp) (smp : Option Sample) (v : Slot) :
    (oscProgWave fp smp v).1 = { v with samplePos := (oscProgWave fp smp v).1.samplePos } := by
  unfold oscProgWave
  split
  · rfl
  · split <;> rfl

/-- The DirectSound generator writes its position at most, unless it ends the voice with no output
(rules R146, R154). -/
theorem oscDirectSound_fst (p : Params) (smp : Option Sample) (v : Slot) :
    (oscDirectSound p smp v).1 = { v with samplePos := (oscDirectSound p smp v).1.samplePos } ∨
      (oscDirectSound p smp v).2 = .zero ∧
        (oscDirectSound p smp v).1 =
          { v with samplePos := (oscDirectSound p smp v).1.samplePos, active := false, phase := .off } := by
  cases smp with
  | none => exact .inl rfl
  | some smp =>
    by_cases h0 : smp.numSamples = 0
    · cases he : p.emptyEnds
      · exact .inl (by simp only [oscDirectSound, if_pos h0, oscEmpty, he]; rfl)
      · exact .inr (by simp only [oscDirectSound, if_pos h0, oscEmpty, he]; exact ⟨trivial, rfl⟩)
    · by_cases hend : (smp.numSamples : Int) ≤ (p.fp.add v.samplePos v.sampleStep).floor
      · by_cases hloop : (smp.isLooped && decide (smp.loopStart < smp.numSamples)) = true
        · exact .inl (by simp only [oscDirectSound, if_neg h0, if_pos hend, if_pos hloop])
        · exact .inr (by simp only [oscDirectSound, if_neg h0, if_pos hend, if_neg hloop]; trivial)
      · exact .inl (by simp only [oscDirectSound, if_neg h0, if_neg hend])

/-- What a generator leaves as it was, whatever the kind (rule R145): identity, class, envelope, steps, pan, bend. -/
theorem osc_frame (pf : Platform) (v : Slot) :
    (osc pf v).1 =
      { v with
        active := (osc pf v).1.active
        phase := (osc pf v).1.phase
        samplePos := (osc pf v).1.samplePos
        squarePhase := (osc pf v).1.squarePhase
        lfsr := (osc pf v).1.lfsr
        noiseTimer := (osc pf v).1.noiseTimer
        noiseOutput := (osc pf v).1.noiseOutput } := by
  unfold osc
  dsimp only
  cases (readVoice pf v.voiceRef).kind <;> dsimp only
  case directSound =>
    rcases oscDirectSound_fst pf.params (sampleOfVoice pf (readVoice pf v.voiceRef)) v with h | ⟨_, h⟩ <;> rw [h]
  case noise => rw [oscNoise_fst]
  case progWave => rw [oscProgWave_fst]
  all_goals rfl

/-- A generator leaves `active` and `phase` as they were, or is a DirectSound generator that ends the voice
(rule R146). -/
theorem osc_active (pf : Platform) (v : Slot) :
    ((osc pf v).1.active = v.active ∧ (osc pf v).1.phase = v.phase) ∨
      ((readVoice pf v.voiceRef).kind = .directSound ∧ (osc pf v).1.active = false ∧ (osc pf v).1.phase = .off) := by
  unfold osc
  dsimp only
  cases (readVoice pf v.voiceRef).kind <;> dsimp only
  case directSound =>
    rcases oscDirectSound_fst pf.params (sampleOfVoice pf (readVoice pf v.voiceRef)) v with h | ⟨_, h⟩
    · exact .inl ⟨by rw [h], by rw [h]⟩
    · exact .inr ⟨rfl, by rw [h], by rw [h]⟩
  case noise => exact .inl ⟨by rw [oscNoise_fst], by rw [oscNoise_fst]⟩
  case progWave => exact .inl ⟨by rw [oscProgWave_fst], by rw [oscProgWave_fst]⟩
  all_goals exact .inl ⟨rfl, rfl⟩

end Sys2Proof.Machine
end

