-- ==== Sys2Proof/Laws/Notes.lean ====
section
/-! SUPPORT. The allocator's walk: what it finds. -/

namespace Sys2Proof.Machine

/-- What the walk has found after the slots of `xs`: none if it met no candidate, else a candidate with the lowest key, the
first of those in `xs`. -/
def Lowest (pool : Vector Slot 24) (cand : Slot → Bool) (key : Slot → Int) (xs : List (Fin 24)) :
    Option (Fin 24) → Prop
  | none => ∀ j ∈ xs, cand pool[j.val] = false
  | some i => i ∈ xs ∧ cand pool[i.val] = true ∧ ∀ j ∈ xs, cand pool[j.val] = true →
      key pool[i.val] ≤ key pool[j.val] ∧ (j < i → key pool[i.val] < key pool[j.val])

/-- One more slot, numbered above those the walk has met. -/
theorem lowest_snoc (pool : Vector Slot 24) (cand : Slot → Bool) (key : Slot → Int) (xs : List (Fin 24))
    (best : Option (Fin 24)) (k : Fin 24) (hk : ∀ j ∈ xs, j < k) (h : Lowest pool cand key xs best) :
    Lowest pool cand key (xs ++ [k]) (betterSlot pool cand key best k) := by
  unfold betterSlot
  split
  · rename_i hc
    cases best with
    | none =>
      refine ⟨by simp, hc, ?_⟩
      intro j hj hcj
      rcases List.mem_append.1 hj with hj | hj
      · rw [h j hj] at hcj; cases hcj
      · rw [List.mem_singleton.1 hj]
        exact ⟨le_rfl, fun hlt => absurd hlt (lt_irrefl _)⟩
    | some b =>
      obtain ⟨hb, hcb, hmin⟩ := h
      simp only
      split
      · rename_i hlt
        refine ⟨by simp, hc, ?_⟩
        intro j hj hcj
        rcases List.mem_append.1 hj with hj | hj
        · have := (hmin j hj hcj).1
          exact ⟨by omega, fun _ => by omega⟩
        · rw [List.mem_singleton.1 hj]
          exact ⟨le_rfl, fun hlt => absurd hlt (lt_irrefl _)⟩
      · rename_i hge
        refine ⟨by simp [hb], hcb, ?_⟩
        intro j hj hcj
        rcases List.mem_append.1 hj with hj | hj
        · exact hmin j hj hcj
        · rw [List.mem_singleton.1 hj]
          exact ⟨by omega, fun hlt => absurd hlt (not_lt.2 (hk b hb).le)⟩
  · rename_i hc
    cases best with
    | none =>
      intro j hj
      rcases List.mem_append.1 hj with hj | hj
      · exact h j hj
      · rw [List.mem_singleton.1 hj]; simpa using hc
    | some b =>
      obtain ⟨hb, hcb, hmin⟩ := h
      refine ⟨by simp [hb], hcb, ?_⟩
      intro j hj hcj
      rcases List.mem_append.1 hj with hj | hj
      · exact hmin j hj hcj
      · rw [List.mem_singleton.1 hj] at hcj; exact absurd hcj hc

/-- The walk over a rising list, from a walk that has met `xs`. -/
theorem lowest_foldl (pool : Vector Slot 24) (cand : Slot → Bool) (key : Slot → Int) (ys xs : List (Fin 24))
    (best : Option (Fin 24)) (hs : (xs ++ ys).Pairwise (· < ·)) (h : Lowest pool cand key xs best) :
    Lowest pool cand key (xs ++ ys) (ys.foldl (betterSlot pool cand key) best) := by
  induction ys generalizing xs best with
  | nil => simpa using h
  | cons y ys ih =>
    have hy : ∀ j ∈ xs, j < y := fun j hj => (List.pairwise_append.1 hs).2.2 j hj y (by simp)
    have := ih (xs ++ [y]) (betterSlot pool cand key best y) (by simpa using hs)
      (lowest_snoc pool cand key xs best y hy h)
    simpa using this

/-- What `lowestSlot` answers (rule R173). -/
theorem lowestSlot_spec (pool : Vector Slot 24) (cand : Slot → Bool) (key : Slot → Int) :
    Lowest pool cand key (List.finRange 24) (lowestSlot pool cand key) :=
  lowest_foldl pool cand key (List.finRange 24) [] none (List.pairwise_lt_finRange 24) (by intro j hj; cases hj)

/-- No slot is a candidate. -/
theorem lowestSlot_none {pool : Vector Slot 24} {cand : Slot → Bool} {key : Slot → Int}
    (h : lowestSlot pool cand key = none) (j : Fin 24) : cand pool[j.val] = false := by
  have := lowestSlot_spec pool cand key
  rw [h] at this
  exact this j (List.mem_finRange j)

/-- The slot found is a candidate; every candidate's key is at least its key, and greater for a lower-numbered one. -/
theorem lowestSlot_some {pool : Vector Slot 24} {cand : Slot → Bool} {key : Slot → Int} {i : Fin 24}
    (h : lowestSlot pool cand key = some i) :
    cand pool[i.val] = true ∧ ∀ j : Fin 24, cand pool[j.val] = true →
      key pool[i.val] ≤ key pool[j.val] ∧ (j < i → key pool[i.val] < key pool[j.val]) := by
  have := lowestSlot_spec pool cand key
  rw [h] at this
  exact ⟨this.2.1, fun j => this.2.2 j (List.mem_finRange j)⟩

end Sys2Proof.Machine
end

