-- ==== Sys2Proof/Laws/PerInstr.lean ====
section
/-! SUPPORT. Families of lemmas with one lemma per constructor of `Instr`. -/

namespace Sys2Proof.Laws.Selector

/-- The encoding of an operation stands in its selector space with every reserved bit zero: a command word has an `op` in
1..8 and its three reserved fields zero (rules R70, R71), a flags word only its bits 0 and 30 (rule R82), a kind byte one of
the eight codes (rule R57). -/
def Statement (i : Instr) : Prop :=
  match encode i with
  | .command c =>
    1 ≤ (splitWord c).op.toNat ∧ (splitWord c).op.toNat ≤ 8 ∧ (splitWord c).rsvA = 0 ∧ (splitWord c).rsvB = 0 ∧
      (splitWord c).rsvC = 0
  | .flags f => f &&& 0xBFFFFFFE#32 = 0
  | .kind b => b.toNat ≤ 7

/-- The reserved fields of a command word. -/
theorem commandWord_reserved (op : BitVec 4) (r : BitVec 1) (ch : Byte) (a b : BitVec 7) (w : Word32)
    (h1 : 1 ≤ op.toNat) (h2 : op.toNat ≤ 8) :
    1 ≤ (splitWord (commandWord op r ch a b w)).op.toNat ∧ (splitWord (commandWord op r ch a b w)).op.toNat ≤ 8 ∧
      (splitWord (commandWord op r ch a b w)).rsvA = 0 ∧ (splitWord (commandWord op r ch a b w)).rsvB = 0 ∧
      (splitWord (commandWord op r ch a b w)).rsvC = 0 := by
  simp only [commandWord, splitWord_joinWord]
  exact ⟨h1, h2, trivial, trivial, trivial⟩

/-- The ignored bits of a flags word. -/
theorem flagsWord_reserved (compressed looped : Bool) : flagsWord compressed looped &&& 0xBFFFFFFE#32 = 0 := by
  cases compressed <;> cases looped <;> decide

theorem reset : Statement .reset :=
  commandWord_reserved _ _ _ _ _ _ (by decide) (by decide)
theorem setRate (w : Word32) : Statement (.setRate w) :=
  commandWord_reserved _ _ _ _ _ _ (by decide) (by decide)
theorem noteOn (r : Bool) (ch : Byte) (note : BitVec 7) (vel : BitVec 7) (ref : Word32) : Statement (.noteOn r ch note vel ref) :=
  commandWord_reserved _ _ _ _ _ _ (by decide) (by decide)
theorem noteOff (ch : Byte) (note : BitVec 7) : Statement (.noteOff ch note) :=
  commandWord_reserved _ _ _ _ _ _ (by decide) (by decide)
theorem allOff (ch : Byte) : Statement (.allOff ch) :=
  commandWord_reserved _ _ _ _ _ _ (by decide) (by decide)
theorem ccMod (ch : Byte) (v : BitVec 7) : Statement (.ccMod ch v) :=
  commandWord_reserved _ _ _ _ _ _ (by decide) (by decide)
theorem ccBendr (ch : Byte) (v : BitVec 7) : Statement (.ccBendr ch v) :=
  commandWord_reserved _ _ _ _ _ _ (by decide) (by decide)
theorem ccVol (ch : Byte) (v : BitVec 7) : Statement (.ccVol ch v) :=
  commandWord_reserved _ _ _ _ _ _ (by decide) (by decide)
theorem ccPan (ch : Byte) (v : BitVec 7) : Statement (.ccPan ch v) :=
  commandWord_reserved _ _ _ _ _ _ (by decide) (by decide)
theorem ccLfos (ch : Byte) (v : BitVec 7) : Statement (.ccLfos ch v) :=
  commandWord_reserved _ _ _ _ _ _ (by decide) (by decide)
theorem ccModt (ch : Byte) (v : BitVec 7) : Statement (.ccModt ch v) :=
  commandWord_reserved _ _ _ _ _ _ (by decide) (by decide)
theorem ccTune (ch : Byte) (v : BitVec 7) : Statement (.ccTune ch v) :=
  commandWord_reserved _ _ _ _ _ _ (by decide) (by decide)
theorem ccLfodl (ch : Byte) (v : BitVec 7) : Statement (.ccLfodl ch v) :=
  commandWord_reserved _ _ _ _ _ _ (by decide) (by decide)
theorem ccXcmd (ch : Byte) (v : BitVec 7) : Statement (.ccXcmd ch v) :=
  commandWord_reserved _ _ _ _ _ _ (by decide) (by decide)
theorem ccXcmdtype (ch : Byte) (v : BitVec 7) : Statement (.ccXcmdtype ch v) :=
  commandWord_reserved _ _ _ _ _ _ (by decide) (by decide)
theorem ccAlloff (ch : Byte) (v : BitVec 7) : Statement (.ccAlloff ch v) :=
  commandWord_reserved _ _ _ _ _ _ (by decide) (by decide)
theorem ccOther (ch : Byte) (k : BitVec 7) (v : BitVec 7) : Statement (.ccOther ch k v) :=
  commandWord_reserved _ _ _ _ _ _ (by decide) (by decide)
theorem pbend (ch : Byte) (b : BitVec 16) : Statement (.pbend ch b) :=
  commandWord_reserved _ _ _ _ _ _ (by decide) (by decide)
theorem render (n : Word32) : Statement (.render n) :=
  commandWord_reserved _ _ _ _ _ _ (by decide) (by decide)
theorem decodeRaw (looped : Bool) : Statement (.decodeRaw looped) := flagsWord_reserved _ _
theorem decodeDpcm (looped : Bool) : Statement (.decodeDpcm looped) := flagsWord_reserved _ _
theorem voiceEmpty : Statement .voiceEmpty := (by decide : (0 : Byte).toNat ≤ 7)
theorem voiceDirectsound : Statement .voiceDirectsound := (by decide : (1 : Byte).toNat ≤ 7)
theorem voiceSquare1 : Statement .voiceSquare1 := (by decide : (2 : Byte).toNat ≤ 7)
theorem voiceSquare2 : Statement .voiceSquare2 := (by decide : (3 : Byte).toNat ≤ 7)
theorem voiceProgwave : Statement .voiceProgwave := (by decide : (4 : Byte).toNat ≤ 7)
theorem voiceNoise : Statement .voiceNoise := (by decide : (5 : Byte).toNat ≤ 7)
theorem voiceKeysplit : Statement .voiceKeysplit := (by decide : (6 : Byte).toNat ≤ 7)
theorem voiceKeysplitall : Statement .voiceKeysplitall := (by decide : (7 : Byte).toNat ≤ 7)

end Sys2Proof.Laws.Selector
end

