-- ==== Sys2Proof/Laws/Pitch.lean ====
section
/-! SUPPORT. The steps of a pitch update in exact reals. -/

namespace Sys2Proof.Machine

/-- `midi_hz(k)` in exact reals is one monomial (rule R243). -/
theorem midiHz_exact {p : Params} (hp : p.fp = .exact) (k : Int) :
    midiHz p k = .monomial p.refHz (((k - 69 : Int) : Rat) / 12) := by
  simp [midiHz, hp, Pow2Sum.ofRat, Pow2Sum.monomial_mul]

/-- The DirectSound step in exact reals is one monomial, in which `REF_HZ` has cancelled (rule R243). -/
theorem dsStep_exact {p : Params} (hp : p.fp = .exact) (hr : p.refHz ≠ 0) (rate : Rat) (vo : Voice) (smp : Sample)
    (key : Int) (total : Rat) :
    dsStep p rate vo (some smp) key total =
      .monomial ((smp.sampleRateHz : Rat) / rate)
        (((key - (vo.baseMidiKey.toNat : Int) : Int) : Rat) / 12 + total / 3072) := by
  simp only [dsStep, midiHz_exact hp, hp, Fp.mul_exact, Fp.pow2_exact, Fp.divQ_exact, Fp.scale_exact, Fp.div_exact,
    Pow2Sum.monomial_mul, Pow2Sum.monomial_inv hr, Pow2Sum.monomial_scale]
  congr 1
  · field_simp
  · push_cast
    ring

end Sys2Proof.Machine
end

