-- ==== Sys2Proof/Laws/Render.lean ====
section
/-! SUPPORT. What the parts of RENDER do to the state. -/

namespace Sys2Proof.Machine

/-- A frame tick writes channels and slots only (rule R185). -/
theorem frameTick_frame (rate : Rat) (s : State) :
    frameTick rate s = { s with ch := (frameTick rate s).ch, v := (frameTick rate s).v } := rfl

/-- The channels after a frame tick: one LFO step each (rule R185). -/
theorem frameTick_ch (rate : Rat) (s : State) (c : Fin 16) :
    ((frameTick rate s).ch)[c.val] = lfoChannel s.ch[c.val] := by
  simp [frameTick]

/-- The slots after a frame tick (rule R185). -/
theorem frameTick_v (rate : Rat) (s : State) (i : Fin 24) :
    ((frameTick rate s).v)[i.val] =
      tickSlot s.platform rate s.ch (mapVec lfoChannel s.ch) s.v[i.val] := by
  simp [frameTick]

/-- A sample tick in which no frame tick is due (rule R184). -/
theorem sampleTick_between {rate : Rat} {s : State}
    (h : s.platform.params.fp.addQ s.frameAcc 1 < samplesPerGbaFrame s.platform.params.fp rate) :
    sampleTick rate s = s.withFrameAcc (s.platform.params.fp.addQ s.frameAcc 1) := by
  simp only [sampleTick, if_neg (not_le.2 h)]

/-- A sample tick in which a frame tick is due (rule R184). -/
theorem sampleTick_due {rate : Rat} {s : State}
    (h : samplesPerGbaFrame s.platform.params.fp rate ≤ s.platform.params.fp.addQ s.frameAcc 1) :
    sampleTick rate s =
      frameTick rate (s.withFrameAcc (s.platform.params.fp.subQ (s.platform.params.fp.addQ s.frameAcc 1)
        (samplesPerGbaFrame s.platform.params.fp rate))) := by
  simp only [sampleTick, if_pos h]

/-- The gain of a voice, in exact reals: one factor (rules R188, R189). -/
theorem voiceGain_exact (x : Channel) (v : Slot) (out : Pow2Sum) :
    voiceGain .exact x v out =
      out.scale ((v.envelopeVolume : Rat) / (v.envMax : Rat) * ((v.velocity.toNat : Rat) / 127)
        * (if x.modState.tremolo then ((x.modState.modM.toInt + 128 : Int) : Rat) / 128 else 1) * x.volume) := by
  unfold voiceGain
  split <;> simp [Pow2Sum.scale_scale, mul_assoc]

/-- A sample tick writes the accumulator, channels and slots only. -/
theorem sampleTick_frame (rate : Rat) (s : State) :
    sampleTick rate s =
      { s with
        frameAcc := (sampleTick rate s).frameAcc, ch := (sampleTick rate s).ch, v := (sampleTick rate s).v } := by
  unfold sampleTick
  dsimp only
  split <;> rfl

/-- The mix writes slots only (rule R187). -/
theorem mixFrame_frame (s : State) : (mixFrame s).1 = { s with v := (mixFrame s).1.v } := rfl

/-- The slots after the mix (rule R187). -/
theorem mixFrame_v (s : State) (i : Fin 24) :
    ((mixFrame s).1.v)[i.val] = (mixVoice s.platform s.ch s.v[i.val]).1 := by
  simp [mixFrame]

/-- The mix leaves an inactive slot as it is (rule R187). -/
theorem mixVoice_inactive {v : Slot} (h : v.active = false) (pf : Platform) (chs : Vector Channel 16) :
    mixVoice pf chs v = (v, []) := by
  simp [mixVoice, h]

/-- The mix steps the generator of an active slot (rule R187). -/
theorem mixVoice_fst {v : Slot} (h : v.active = true) (pf : Platform) (chs : Vector Channel 16) :
    (mixVoice pf chs v).1 = (osc pf v).1 := by
  simp [mixVoice, h]

/-- What a frame accumulates: the contributions of the active slots, in slot order (rules R187, R191). -/
theorem mixed_contributions (pf : Platform) (chs : Vector Channel 16) (vs : Vector Slot 24) :
    (mapVec (mixVoice pf chs) vs).toList.flatMap (fun m => m.2) =
      ((List.finRange 24).filter fun i : Fin 24 => (vs[i.val]).active).map fun i : Fin 24 =>
        let x := chs[(vs[i.val]).channel.val]
        (⟨voiceGain pf.params.fp x vs[i.val] (osc pf vs[i.val]).2, panPosition pf.params.fp x vs[i.val]⟩ :
          Contribution) := by
  have hslots : (mapVec (mixVoice pf chs) vs).toList =
      (List.finRange 24).map fun i : Fin 24 => mixVoice pf chs vs[i.val] :=
    List.ext_getElem (by simp) (by simp)
  rw [hslots]
  induction List.finRange 24 with
  | nil => rfl
  | cons i is ih => cases ha : (vs[i.val]).active <;> simp_all [mixVoice]

/-- One output frame writes the accumulator, channels and slots only. -/
theorem renderFrame_frame (rate : Rat) (s : State) :
    (renderFrame rate s).1 =
      { s with
        frameAcc := (sampleTick rate s).frameAcc, ch := (sampleTick rate s).ch
        v := (renderFrame rate s).1.v } := by
  unfold renderFrame
  rw [mixFrame_frame, sampleTick_frame]

/-- What every output frame keeps, `n` output frames keep. -/
theorem renderFrames_keeps {P : State → Prop} {rate : Rat} (hP : ∀ s, P s → P (renderFrame rate s).1) (n : Nat) :
    ∀ s, P s → P (renderFrames rate n s).1 := by
  induction n with
  | zero => exact fun s h => h
  | succ n ih => exact fun s h => ih _ (hP s h)

end Sys2Proof.Machine
end

