-- ==== Sys2Proof/Laws/Step.lean ====
section
/-! SUPPORT. What a step can do, said once: nothing to take, an operation run to its end, or a code that is dropped. -/

namespace Sys2Proof.Machine

/-- The end of an operation that gives a next state. -/
theorem finish_next {o : Host.Outcome State Fault Refusal} {t : State} (h : finish o = .next t) :
    ∃ u, o = .next u ∧ t = releaseLock u := by
  cases o with
  | next u => exact ⟨u, rfl, by simpa [finish] using h.symm⟩
  | fault r => cases h
  | refused r => cases h

/-- Every case of a step that gives a next state. -/
theorem step_cases {s t : State} (h : step s = .next t) :
    (fetch s = none ∧ t = s) ∨
      ∃ f, fetch s = some f ∧
        ((∃ i u, decode f.code = .ok i ∧ exec i f.state = .next u ∧ t = releaseLock u) ∨
          ∃ r, decode f.code = .error r ∧ t = releaseLock f.state) := by
  unfold step at h
  split at h
  · rename_i hf
    exact .inl ⟨hf, by simpa using h.symm⟩
  · rename_i f hf
    refine .inr ⟨f, hf, ?_⟩
    unfold runCode at h
    split at h
    · rename_i i hd
      obtain ⟨u, hu, ht⟩ := finish_next h
      exact .inl ⟨i, u, hd, hu, ht⟩
    · rename_i r hd
      obtain ⟨u, hu, ht⟩ := finish_next h
      exact .inr ⟨r, hd, by rw [ht, drop_next hu]⟩

/-- Fetching writes the lock, the command port, the arbitration count and the request, and needs a free lock
(rules R62, R63). -/
theorem fetch_frame {s : State} {f : Fetched} (h : fetch s = some f) :
    s.lock = .free ∧
      f.state =
        { s with
          lock := f.state.lock, hostQueue := f.state.hostQueue, audioQueue := f.state.audioQueue
          arbitrations := f.state.arbitrations, request := f.state.request } := by
  unfold fetch at h
  split at h
  · rename_i hl
    refine ⟨hl, ?_⟩
    split at h
    · cases h; rfl
    · cases h; rfl
    · unfold admission at h
      split at h
      · cases h
      · cases h; rfl
      · cases h; rfl
      · split at h <;> (cases h; rfl)
  · cases h
  · cases h

@[simp] theorem releaseLock_v (s : State) : (releaseLock s).v = s.v := rfl
@[simp] theorem releaseLock_ch (s : State) : (releaseLock s).ch = s.ch := rfl
@[simp] theorem releaseLock_platform (s : State) : (releaseLock s).platform = s.platform := rfl
@[simp] theorem releaseLock_sampleRate (s : State) : (releaseLock s).sampleRate = s.sampleRate := rfl
@[simp] theorem releaseLock_frameAcc (s : State) : (releaseLock s).frameAcc = s.frameAcc := rfl
@[simp] theorem releaseLock_lock (s : State) : (releaseLock s).lock = .free := rfl

end Sys2Proof.Machine
end

