-- ==== Sys2Proof/Tests/Slice0.lean ====
section
/-! SUPPORT. The model's own tests, and for every statement with hypotheses a concrete input that meets them. Expected
values are those of `95_test_vectors.md` and of the worked examples of the rules, or computed by hand from the rules. -/

open Sys2Proof Sys2Proof.Machine

namespace Sys2Proof.Tests

-- one theorem at a time: each kernel evaluation has a thread of its own
set_option Elab.async false

/-! ## WellFormed -/

theorem test_named_controller_is_not_other : (Instr.ccOther 0 1 5).wellFormed = false := by decide
theorem test_all_off_controller_is_not_other : (Instr.ccOther 0 123 0).wellFormed = false := by decide
theorem test_other_controller_is_well_formed : (Instr.ccOther 0 2 100).wellFormed = true := by decide

/-! ## Decoding: words of `95_test_vectors.md` section 2.1, of the worked examples of the rules, and kind bytes of rule
R57 -/

theorem test_decode_reset : decodeTableWord 64 0x1000000000000000 = some .reset := by decide
theorem test_decode_set_rate : decodeTableWord 64 0x200000000000AC44 = some (.setRate 44100) := by decide
theorem test_decode_note_on : decodeTableWord 64 0x30003C6400000100 = some (.noteOn false 0 60 100 0x100) := by decide
theorem test_decode_note_on_rhythm : decodeTableWord 64 0x3109246400000340 = some (.noteOn true 9 36 100 0x340) := by
  decide
theorem test_decode_note_off : decodeTableWord 64 0x40003C0000000000 = some (.noteOff 0 60) := by decide
theorem test_decode_all_off : decodeTableWord 64 0x5009000000000000 = some (.allOff 9) := by decide
theorem test_decode_cc_mod : decodeTableWord 64 0x6002014000000000 = some (.ccMod 2 64) := by decide
theorem test_decode_cc_bendr : decodeTableWord 64 0x6000060C00000000 = some (.ccBendr 0 12) := by decide
theorem test_decode_cc_vol : decodeTableWord 64 0x6000076400000000 = some (.ccVol 0 100) := by decide
theorem test_decode_cc_pan : decodeTableWord 64 0x60030A7F00000000 = some (.ccPan 3 127) := by decide
theorem test_decode_cc_lfos : decodeTableWord 64 0x6002154000000000 = some (.ccLfos 2 64) := by decide
theorem test_decode_cc_modt : decodeTableWord 64 0x6002160100000000 = some (.ccModt 2 1) := by decide
theorem test_decode_cc_tune : decodeTableWord 64 0x6000186000000000 = some (.ccTune 0 96) := by decide
theorem test_decode_cc_lfodl : decodeTableWord 64 0x60021A0100000000 = some (.ccLfodl 2 1) := by decide
theorem test_decode_cc_xcmd : decodeTableWord 64 0x60021D2800000000 = some (.ccXcmd 2 40) := by decide
theorem test_decode_cc_xcmdtype : decodeTableWord 64 0x60021E0800000000 = some (.ccXcmdtype 2 8) := by decide
theorem test_decode_cc_alloff : decodeTableWord 64 0x60097B0000000000 = some (.ccAlloff 9 0) := by decide
theorem test_decode_cc_other : decodeTableWord 64 0x6000026400000000 = some (.ccOther 0 2 100) := by decide
theorem test_decode_pbend : decodeTableWord 64 0x7000000000001000 = some (.pbend 0 4096) := by decide
theorem test_decode_pbend_negative : decodeTableWord 64 0x700000000000FFFF = some (.pbend 0 (-1)) := by decide
theorem test_decode_render : decodeTableWord 64 0x8000000000000100 = some (.render 256) := by decide
theorem test_decode_raw : decodeTableWord 32 0x40000000 = some (.decodeRaw true) := by decide
theorem test_decode_raw_ignores : decodeTableWord 32 0xBFFFFFFE = some (.decodeRaw false) := by decide
theorem test_decode_dpcm : decodeTableWord 32 0x00000001 = some (.decodeDpcm false) := by decide
theorem test_decode_kind_empty : decodeTableWord 8 0 = some .voiceEmpty := by decide
theorem test_decode_kind_directsound : decodeTableWord 8 1 = some .voiceDirectsound := by decide
theorem test_decode_kind_square1 : decodeTableWord 8 2 = some .voiceSquare1 := by decide
theorem test_decode_kind_square2 : decodeTableWord 8 3 = some .voiceSquare2 := by decide
theorem test_decode_kind_progwave : decodeTableWord 8 4 = some .voiceProgwave := by decide
theorem test_decode_kind_noise : decodeTableWord 8 5 = some .voiceNoise := by decide
theorem test_decode_kind_keysplit : decodeTableWord 8 6 = some .voiceKeysplit := by decide
theorem test_decode_kind_keysplitall : decodeTableWord 8 7 = some .voiceKeysplitall := by decide
theorem test_decode_kind_reserved : decodeTableWord 8 8 = none ∧ decodeTableWord 8 255 = none := by decide
theorem test_decode_reserved_ops : decodeTableWord 64 0 = none ∧ decodeTableWord 64 0x9000000000000000 = none := by decide
theorem test_decode_reserved_bit : decodeTableWord 64 0x3000BC6400000100 = none := by decide
theorem test_decode_dead_fields :
    decodeTableWord 64 0x1000000000000001 = none ∧ decodeTableWord 64 0x40003C0100000000 = none := by decide
theorem test_encode_note_on : encode (.noteOn true 9 36 100 0x340) = .command 0x3109246400000340 := by decide

/-! ## Small states -/

/-- Records and blobs of the spec's programs: at 0x100 the Square2 record of P1, at 0x120 the DirectSound record of P2 with
its blob at 0x200 (looped) and 0x220 (not looped, record at 0x130), at 0x140 a programmable wave on the looped blob, at
0x150 a noise record (7-bit), at 0x160 a DirectSound record with no sample, at 0x170 a Square1 record with a sustain out
of range, at 0x180 the Square1 record of P4, at 0x190 and 0x1A0 Square1 records with pan 128 and key 128, at 0x1B0 a
DirectSound record on the empty sample at 0x240. -/
def bank : Memory :=
  let m := Memory.writeBytes [] 0x220 [1, 0, 0, 0, 0, 0, 0xFA, 0, 0, 0, 0, 0, 3, 0, 0, 0, 0x10, 0xFE]
  let m := m.writeBytes 0x200 [1, 0, 0, 0x40, 0, 0, 0xFA, 0, 0, 0, 0, 0, 3, 0, 0, 0, 0x10, 0xFE]
  let m := m.writeBytes 0x240 [0, 0, 0, 0, 0, 0, 0xFA, 0, 0, 0, 0, 0, 3, 0, 0, 0]
  let m := m.writeBytes 0x1B0 [1, 60, 0, 0, 255, 0, 255, 0, 0x40, 2, 0, 0, 16, 0, 0, 0]
  let m := m.writeBytes 0x1A0 [2, 128, 0, 0, 0, 0, 15, 0]
  let m := m.writeBytes 0x190 [2, 60, 128, 0, 0, 0, 15, 0]
  let m := m.writeBytes 0x180 [2, 60, 0, 1, 2, 1, 8, 1, 255, 255, 255, 255, 0, 0, 0, 0]
  let m := m.writeBytes 0x170 [2, 60, 0, 0, 0, 0, 16, 0, 255, 255, 255, 255, 0, 0, 0, 0]
  let m := m.writeBytes 0x160 [1, 60, 0, 0, 10, 200, 50, 200, 255, 255, 255, 255, 0, 0, 0, 0]
  let m := m.writeBytes 0x150 [5, 60, 0, 1, 0, 0, 15, 0, 255, 255, 255, 255, 0, 0, 0, 0]
  let m := m.writeBytes 0x140 [4, 60, 0, 0, 0, 0, 15, 0, 0, 2, 0, 0, 18, 0, 0, 0]
  let m := m.writeBytes 0x130 [1, 60, 127, 0, 255, 0, 255, 0, 0x20, 2, 0, 0, 18, 0, 0, 0]
  let m := m.writeBytes 0x120 [1, 60, 127, 0, 255, 0, 255, 0, 0, 2, 0, 0, 18, 0, 0, 0]
  m.writeBytes 0x100 [3, 60, 0, 2, 0, 0, 15, 0, 255, 255, 255, 255, 0, 0, 0, 0]

/-- The reset state with that bank, 1024 bytes of it. -/
def demo : State := { State.reset with platform := ⟨bank, { Params.standard with bankSize := 1024 }⟩ }

/-- The next state of an outcome; the reset state if there is none. -/
def after (o : Host.Outcome State Fault Refusal) : State :=
  match o with
  | .next t => t
  | .fault _ => State.reset
  | .refused _ => State.reset

/-- Does an outcome answer the next state `t`? -/
def nextIs (o : Host.Outcome State Fault Refusal) (t : State) : Bool :=
  match o with
  | .next u => decide (u = t)
  | .fault _ => false
  | .refused _ => false

theorem nextIs_eq {o : Host.Outcome State Fault Refusal} {t : State} (h : nextIs o t = true) : o = .next t := by
  cases o with
  | next u => simpa [nextIs] using h
  | fault r => cases h
  | refused r => cases h

/-- An active slot in Sustain with the record at `ref`. -/
def holding (ref : Word32) (cgb : Bool) : Slot :=
  { Slot.blank with
    active := true, phase := .sustain, voiceRef := ref, isCgbVoice := cgb, envelopeGoal := 15, sustainGoal := 15
    envelopeVolume := 15, velocity := 127, pan := 1 / 2, noiseInterval := 8, lfsr := 0x7F, noiseWidth7bit := true }

/-- The demo state with a slot 0. -/
def playing (v : Slot) : State := demo.setSlot 0 v

/-- The square note of P1, started. -/
def noted : State := after (exec (.noteOn false 0 100 127 0x100) { demo with sampleRate := some 32768 })

/-- The sample of P2's blob. -/
def wave (looped : Bool) : Sample := ⟨16000, 0, 4, looped, true, [0, 1, -3, -4]⟩

/-! ## One step -/

theorem test_reset_silences :
    ((after (exec .reset noted)).v[0]).active = false ∧ (after (exec .reset noted)).triggerCounter = 0 := by
  decide +kernel
theorem test_set_rate : (after (exec (.setRate 32768) demo)).sampleRate = some 32768 := by decide +kernel
theorem test_set_rate_zero : nextIs (exec (.setRate 0) demo) demo = true := by decide +kernel
/- P1 after command 3, but that the record's key does not matter. -/
theorem test_note_on_square :
    (noted.v[0]).active = true ∧ (noted.v[0]).triggerOrder = 1 ∧ (noted.v[0]).phase = .decay ∧
      (noted.v[0]).envelopeVolume = 15 ∧ (noted.v[0]).envelopeCounter = 0 ∧ (noted.v[0]).sustainGoal = 15 ∧
      (noted.v[0]).squarePhaseInc = 8 / 100 ∧ (noted.v[0]).pan = 1 / 2 := by decide +kernel
theorem test_note_on_channel_16 : nextIs (exec (.noteOn false 16 60 100 0x100) demo) demo = true := by decide +kernel
theorem test_note_off_releases : ((after (exec (.noteOff 0 100) noted)).v[0]).phase = .release := by decide +kernel
theorem test_note_off_other_note : nextIs (exec (.noteOff 0 99) noted) noted = true := by decide +kernel
theorem test_all_off : ((after (exec (.allOff 0) noted)).v[0]).phase = .off := by decide +kernel
theorem test_cc_alloff : after (exec (.ccAlloff 0 5) noted) = after (exec (.allOff 0) noted) := by decide +kernel
theorem test_cc_mod : ((after (exec (.ccMod 2 64) demo)).ch[2]).modState.mod = 64 := by decide +kernel
theorem test_cc_bendr : ((after (exec (.ccBendr 0 12) demo)).ch[0]).pitchBendRange = 12 := by decide +kernel
theorem test_cc_vol : ((after (exec (.ccVol 0 100) demo)).ch[0]).volume = 100 / 127 := by decide +kernel
theorem test_cc_pan : ((after (exec (.ccPan 3 127) demo)).ch[3]).pan = 1 := by decide +kernel
theorem test_cc_lfos : ((after (exec (.ccLfos 2 64) demo)).ch[2]).modState.lfoSpeed = 64 := by decide +kernel
theorem test_cc_modt : ((after (exec (.ccModt 2 1) demo)).ch[2]).modState.modType = 1 := by decide +kernel
theorem test_cc_tune : ((after (exec (.ccTune 0 96) demo)).ch[0]).modState.fineTune = 32 := by decide +kernel
theorem test_cc_lfodl : ((after (exec (.ccLfodl 2 1) demo)).ch[2]).modState.lfoDelayCountdown = 1 := by decide +kernel
theorem test_cc_xcmd :
    ((after (exec (.ccXcmd 2 40) (after (exec (.ccXcmdtype 2 8) demo)))).ch[2]).modState.pseudoEchoVol = 40 := by
  decide +kernel
theorem test_cc_xcmd_without_type : nextIs (exec (.ccXcmd 2 40) demo) demo = true := by decide +kernel
theorem test_cc_other : nextIs (exec (.ccOther 0 2 100) demo) demo = true := by decide +kernel
theorem test_pbend : ((after (exec (.pbend 0 (-8192)) demo)).ch[0]).pitchBendSemitones = -2 := by decide +kernel
/- Scenario S4: the bend back gives the step of NOTE_ON. -/
theorem test_pbend_round_trip :
    ((after (exec (.pbend 0 0) (after (exec (.pbend 0 8191) noted)))).v[0]).squarePhaseInc = 8 / 100 := by
  decide +kernel
/- P1, its first frame: 1/2 * 1/8 on pan position 1/2. -/
theorem test_render_square :
    (after (exec (.render 1) noted)).audio =
      [⟨.clip [⟨.ofRat (1 / 16), 1 / 2⟩], .clip [⟨.ofRat (1 / 16), 1 / 2⟩]⟩] := by decide +kernel
theorem test_render_none : nextIs (exec (.render 0) noted) noted = true := by decide +kernel
/- `95_test_vectors.md` section 2.2. -/
theorem test_decode_raw_blob :
    decodeSample ⟨Memory.writeBytes [] 0 [0, 0, 0, 0x40, 0, 0, 0, 0, 1, 0, 0, 0, 3, 0, 0, 0, 0x80, 0xFF, 0, 0x7F, 5],
      .standard⟩ 0 21 = some ⟨8000, 1, 4, true, false, [-128, -1, 0, 127]⟩ := by decide +kernel
theorem test_decode_dpcm_wraps : deltaDecode 0 [0x77, 0x77, 0x07] = [49, 98, -109, -60, -11, -11] := by decide +kernel
theorem test_decode_dpcm_result :
    (after (exec (.decodeDpcm true) { demo with decAddr := 0x200, decLen := 18 })).decResult = some (wave true) := by
  decide +kernel
theorem test_decode_load_error :
    (after (exec (.decodeRaw true) { demo with decAddr := 0x200, decLen := 15 })).decResult = none := by decide +kernel
/- Section 2.4, DirectSound at step 1/2 from 3: position 3.5 gives -2 of 128. -/
theorem test_directsound_edge :
    (after (exec .voiceDirectsound
      (playing { holding 0x120 false with samplePos := .ofRat 3, sampleStep := .ofRat (1 / 2) }))).genOut =
      .ofRat (-2 / 128) := by decide +kernel
theorem test_directsound_ends :
    ((after (exec .voiceDirectsound
      (playing { holding 0x130 false with samplePos := .ofRat 3, sampleStep := .ofRat 1 }))).v[0]).phase = .off := by
  decide +kernel
/- The two readings of an empty sample (rule R154, decision D28). -/
theorem test_directsound_empty :
    nextIs (exec .voiceDirectsound (playing (holding 0x1B0 false))) (playing (holding 0x1B0 false)) = true ∧
      (oscDirectSound { Params.standard with emptyEnds := true } (some ⟨16000, 0, 0, false, false, []⟩)
        (holding 0x1B0 false)).1.phase = .off := by decide +kernel
theorem test_square1 :
    (after (exec .voiceSquare1 (playing { holding 0x180 true with squarePhase := 1 / 4 }))).genOut = .ofRat (-1 / 2) := by
  decide +kernel
theorem test_square2 :
    (after (exec .voiceSquare2 (playing { holding 0x100 true with squarePhase := 148 / 100 }))).genOut =
      .ofRat (1 / 2) := by decide +kernel
theorem test_progwave :
    (after (exec .voiceProgwave (playing { holding 0x140 true with samplePos := .ofRat (7 / 2) }))).genOut =
      .ofRat (-2 / 128) := by decide +kernel
/- Rule R152: 7-bit mode from 0x0001. -/
theorem test_noise :
    ((after (exec .voiceNoise (playing { holding 0x150 true with lfsr := 1, noiseTimer := 7 }))).v[0]).lfsr = 0x4040 := by
  decide +kernel
theorem test_voices_without_generator :
    nextIs (exec .voiceEmpty noted) noted = true ∧ nextIs (exec .voiceKeysplit noted) noted = true ∧
      nextIs (exec .voiceKeysplitall noted) noted = true := by decide +kernel
/- Rule R209, speed 22 and depth 127: the wrap at the ninth step, from count 176. -/
theorem test_lfo_wraps :
    (lfoStep { ModState.zero with mod := 127, lfoSpeed := 22, lfoPhaseCounter := 176 }).modM = 117 := by decide +kernel
/- Rule R140. -/
theorem test_registers :
    midiToCgbReg .standard 60 128 = 1561 ∧ midiToCgbReg .standard 69 0 = 1750 ∧ midiToCgbReg .standard 200 0 = 2046 := by
  decide +kernel
/- Rule R227: 19 decay steps from 255 with decay 200 and sustain 0 end the voice. -/
theorem test_ds_decay :
    ((envelopeStep { emptyVoice with decay := 200 })^[18]
      { Slot.blank with active := true, phase := .decay, envelopeVolume := 255 }).envelopeVolume = 1 ∧
    ((envelopeStep { emptyVoice with decay := 200 })^[19]
      { Slot.blank with active := true, phase := .decay, envelopeVolume := 255 }).phase = .off := by decide +kernel
/- Rule R243: key = base + 7 at half the rate is 2^(7/12) / 2. -/
theorem test_ds_step :
    dsStep .standard 32000 { emptyVoice with baseMidiKey := 60 } (some (wave true)) 67 0 = ⟨[⟨7 / 12, 1 / 2⟩]⟩ := by
  decide +kernel
/- `REF_HZ` cancels (rule R243). -/
theorem test_ref_hz_cancels :
    dsStep { Params.standard with refHz := 432 } 32000 { emptyVoice with baseMidiKey := 60 } (some (wave true)) 67 3072 =
      ⟨[⟨7 / 12, 1⟩]⟩ := by decide +kernel
/- 2^(7/12) is between 1 and 2. -/
theorem test_floor_irrational : (Pow2Sum.monomial 100 (7 / 12)).floor = 149 := by decide +kernel

/-! ## Witnesses: for each statement with hypotheses, inputs that meet them, at the boundaries of its clauses -/

/-- Does an outcome answer a next state? -/
def completes (o : Host.Outcome State Fault Refusal) : Bool :=
  match o with
  | .next _ => true
  | .fault _ => false
  | .refused _ => false

theorem next_after {o : Host.Outcome State Fault Refusal} (h : completes o = true) : o = .next (after o) := by
  cases o with
  | next u => rfl
  | fault r => cases h
  | refused r => cases h

/-- The demo state with one host command waiting. -/
def waiting (w : Word64) : State := { demo with hostQueue := [w] }

theorem witness_DecodeOfEncodeIsTheInstruction :
    (Instr.ccOther 255 0 127).wellFormed = true ∧ (Instr.ccOther 0 124 0).wellFormed = true := by decide

theorem witness_AcceptedWordIsTheEncoding : decodeCommand 0x6000026400000000 = .ok (.ccOther 0 2 100) := by rfl

theorem witness_StepRunsTheDecodedOperation :
    (∃ f, fetch (waiting 0x1000000000000000) = some f ∧ decode f.code = .ok .reset) ∧
    ((waiting 0x1000000000000000).lock = .free ∧ (waiting 0x1000000000000000).request = none ∧
      (waiting 0x1000000000000000).audioQueue = []) ∧
    (let s := { demo with audioQueue := [0x8000000000000001] };
      s.lock = .free ∧ s.request = none ∧ s.hostQueue = [] ∧ s.audioQueue = 0x8000000000000001 :: []) ∧
    (let s := { demo with request := some .decode }; s.lock = .free ∧ s.request = some .decode) ∧
    (let s := { playing (holding 1008 false) with request := some .generator };
      s.lock = .free ∧ s.request = some .generator ∧
        (s.v[s.genSlot.val]).voiceRef.toNat + 16 = s.platform.params.bankSize) ∧
    fetch demo = none := by
  refine ⟨⟨_, rfl, rfl⟩, by decide +kernel, by decide +kernel, by decide +kernel, by decide +kernel, rfl⟩

theorem witness_ReservedWordIsDropped :
    (waiting 0x9000000000000000).lock = .free ∧ (waiting 0x9000000000000000).request = none ∧
      decodeCommand 0x9000000000000000 = .error .reservedOp ∧ (waiting 0x9000000000000000).audioQueue = [] ∧
      (let s := { demo with audioQueue := [0x9000000000000000] };
        s.hostQueue = [] ∧ s.audioQueue = 0x9000000000000000 :: []) := by
  refine ⟨rfl, rfl, rfl, rfl, rfl, rfl⟩

theorem witness_AdmissionTakesTheOldestOfOneAgent :
    demo.lock = .free ∧ step demo = .next demo ∧ (waiting 0x1000000000000000).request = none ∧
      (∃ f, fetch (waiting 0x1000000000000000) = some f) ∧ (waiting 0x1000000000000000).hostQueue ≠ [] := by
  refine ⟨rfl, rfl, rfl, ⟨_, rfl⟩, by decide +kernel⟩

theorem witness_NoOperationWritesTheBank : exec (.noteOff 0 100) noted = .next (after (exec (.noteOff 0 100) noted)) :=
  next_after (by decide +kernel)

theorem witness_OperationsWriteOnlyTheirOwnState :
    exec (.ccVol 0 100) demo = .next (after (exec (.ccVol 0 100) demo)) := next_after (by decide +kernel)

theorem witness_StepsPanAndIdentityAreKept :
    exec (.noteOff 0 100) noted = .next (after (exec (.noteOff 0 100) noted)) ∧
      exec (.pbend 0 100) (playing { holding 0x100 true with isRhythm := true }) =
        .next (after (exec (.pbend 0 100) (playing { holding 0x100 true with isRhythm := true }))) ∧
      ((playing { holding 0x100 true with isRhythm := true }).v[0]).isRhythm = true := by
  refine ⟨next_after (by decide +kernel), next_after (by decide +kernel), by decide +kernel⟩

theorem witness_MemoryWriteSetsOneByte : Memory.wf [(3, 1), (5, 255)] := by decide +kernel

theorem witness_ResetIsIdempotentAndForgets :
    exec .reset noted = .next (after (exec .reset noted)) ∧ noted.platform = (playing (holding 0x100 true)).platform ∧
      ({ noted with sampleRate := some 44100 }).sampleRate = (playing (holding 0x100 true)).sampleRate := by
  refine ⟨next_after (by decide +kernel), by decide +kernel, by decide +kernel⟩

theorem witness_SetRateWritesTheRateOnly : (1 : Word32) ≠ 0 ∧ (0xFFFFFFFF : Word32) ≠ 0 ∧ (0 : Word32) = 0 := by decide

theorem witness_DepthAndSpeedZeroRestartTheLfo :
    (0 : Byte).toNat = (0 : Fin 16).val ∧ (15 : Byte).toNat = (15 : Fin 16).val ∧ (1 : BitVec 7) ≠ 0 := by decide

theorem witness_ModulationSettingsAreStored :
    (15 : Byte).toNat = (15 : Fin 16).val ∧
      (let s := demo.setChannel 15 { demo.ch[15] with modState := { ModState.zero with xcmdType := 8 } };
        (s.ch[15]).modState.xcmdType = 8) ∧
      (let s := demo.setChannel 15 { demo.ch[15] with modState := { ModState.zero with xcmdType := 9 } };
        (s.ch[15]).modState.xcmdType = 9) ∧
      (demo.ch[15]).modState.xcmdType ≠ 8 ∧ (demo.ch[15]).modState.xcmdType ≠ 9 := by decide +kernel

theorem witness_VolumePanAndRangeAreStored :
    (15 : Byte).toNat = (15 : Fin 16).val ∧ demo.platform.params.fp = .exact := by decide +kernel

theorem witness_BadChannelsAndOtherControllersAreDropped :
    15 < (16 : Byte).toNat ∧ 15 < (255 : Byte).toNat ∧ demo.sampleRate ≠ none := by decide +kernel

theorem witness_AllOffStopsTheChannel : 15 < (16 : Byte).toNat := by decide

theorem witness_NoteOffReleasesTheMatchingVoices :
    15 < (16 : Byte).toNat ∧ (noted.v[0]).active = true ∧ (noted.v[0]).channel.val = (0 : Byte).toNat ∧
      (noted.v[0]).note = 100 ∧ (noted.v[0]).phase ≠ .release := by decide +kernel

theorem witness_NoRateNoSound : ({ demo with sampleRate := none }).sampleRate = none := rfl

theorem witness_NoteOnTurnsBadRecordsAway :
    demo.sampleRate ≠ none ∧ 15 < (16 : Byte).toNat ∧
      demo.platform.params.bankSize < (1009 : Word32).toNat + 16 ∧
      (demo.platform.bank.read (1008 : Word32).toNat).toNat ∉ [1, 2, 3, 4, 5] ∧
      (15 : Byte).toNat ≤ 15 ∧ (0x170 : Word32).toNat + 16 ≤ demo.platform.params.bankSize ∧
      (demo.platform.bank.read (0x170 : Word32).toNat).toNat ∈ [1, 2, 3, 4, 5] ∧
      (demo.platform.bank.read (0x170 : Word32).toNat).toNat ∈ [2, 3, 4, 5] ∧
      15 < (demo.platform.bank.read ((0x170 : Word32).toNat + 6)).toNat ∧
      (demo.platform.bank.read (0x190 : Word32).toNat).toNat ∈ [1, 2, 3, 4, 5] ∧
      127 < (demo.platform.bank.read ((0x190 : Word32).toNat + 2)).toNat ∧
      (demo.platform.bank.read (0x1A0 : Word32).toNat).toNat ∈ [1, 2, 3, 4, 5] ∧
      127 < (demo.platform.bank.read ((0x1A0 : Word32).toNat + 1)).toNat := by decide +kernel

theorem witness_NoteOnStartsTheVoice :
    demo.sampleRate = some 44100 ∧ (15 : Byte).toNat = (15 : Fin 16).val ∧
      kindSounds (readVoice demo.platform 0x100).kind = true ∧ (readVoice demo.platform 0x100).wellFormed = true := by
  decide +kernel

theorem witness_NoteOnLeavesExactlyOneSuchVoice :
    (0 : Byte).toNat = (0 : Fin 16).val ∧ kindSounds (readVoice noted.platform 0x120).kind = true ∧
      exec (.noteOn false 0 100 1 0x120) noted = .next (after (exec (.noteOn false 0 100 1 0x120) noted)) := by
  refine ⟨by decide, by decide +kernel, next_after (by decide +kernel)⟩

/-- A platform with one record at 0 of the given kind and attack. -/
def oneRecord (kind attack : Byte) : Platform :=
  ⟨Memory.writeBytes [] 0 [kind, 60, 0, 0, attack, 0, 15, 0], .standard⟩

theorem witness_NewVoiceHasTakenItsFirstEnvelopeStep :
    kindIsCgb (readVoice (oneRecord 1 255) 0).kind = false ∧ (readVoice (oneRecord 1 255) 0).attack.toNat = 255 ∧
      kindIsCgb (readVoice (oneRecord 1 254) 0).kind = false ∧ (readVoice (oneRecord 1 254) 0).attack.toNat ≠ 255 ∧
      kindIsCgb (readVoice (oneRecord 2 0) 0).kind = true ∧ (readVoice (oneRecord 2 0) 0).attack.toNat = 0 ∧
      (readVoice (oneRecord 2 1) 0).attack.toNat = 1 ∧ 2 ≤ (readVoice (oneRecord 2 2) 0).attack.toNat := by
  decide +kernel

theorem witness_NewVoiceStartsItsOscillator :
    kindSounds (readVoice (oneRecord 1 0) 0).kind = true ∧ kindSounds (readVoice (oneRecord 5 0) 0).kind = true ∧
      (oneRecord 1 0).params.fp = .exact ∧ 0 < (oneRecord 1 0).params.refHz := by
  decide +kernel

/-- A pool of active slots in one phase, but slot 23 in another. -/
def poolOf (most last : Phase) : Vector Slot 24 :=
  (Vector.replicate 24 { Slot.blank with active := true, phase := most }).set 23
    { Slot.blank with active := true, phase := last }

theorem witness_AllocatorPicksByPhaseVolumeAndAge :
    (∃ j : Fin 24, ((demo.v)[j.val]).active = false) ∧
      ((∀ j : Fin 24, ((poolOf .attack .echo)[j.val]).active = true) ∧
        ∃ j : Fin 24, ((poolOf .attack .echo)[j.val]).phase = .echo) ∧
      ((∀ j : Fin 24, ((poolOf .attack .release)[j.val]).phase ≠ .echo) ∧
        ∃ j : Fin 24, ((poolOf .attack .release)[j.val]).phase = .release) ∧
      ((∀ j : Fin 24, ((poolOf .attack .decay)[j.val]).phase ≠ .echo) ∧
        (∀ j : Fin 24, ((poolOf .attack .decay)[j.val]).phase ≠ .release) ∧
        ∃ j : Fin 24, ((poolOf .attack .decay)[j.val]).phase ≠ .attack) ∧
      ∀ j : Fin 24, ((poolOf .attack .attack)[j.val]).phase = .attack ∧ ((poolOf .attack .attack)[j.val]).active = true := by
  decide +kernel

theorem witness_PitchBendRetunesTheChannel :
    noted.sampleRate = some 32768 ∧ 15 < (16 : Byte).toNat ∧ (0 : Byte).toNat = (0 : Fin 16).val ∧
      noted.platform.params.fp = .exact ∧ 0 < noted.platform.params.refHz ∧
      (noted.v[0]).active = true ∧ (noted.v[0]).channel = 0 ∧ (noted.v[0]).isRhythm = false ∧ (noted.v[1]).active = false := by
  decide +kernel

theorem witness_PitchBendRoundTripIsExact :
    (noted.v[0]).isRhythm = false ∧ (readVoice noted.platform (noted.v[0]).voiceRef).kind = .square2 ∧
      (noted.ch[0]).modState.fineTune = 0 ∧ (noted.ch[0]).modState.modM = 0 ∧ noted.platform.params.fp = .exact ∧
      exec (.pbend 0 0x7FFF) noted = .next (after (exec (.pbend 0 0x7FFF) noted)) ∧
      exec (.pbend 0 0) (after (exec (.pbend 0 0x7FFF) noted)) =
        .next (after (exec (.pbend 0 0) (after (exec (.pbend 0 0x7FFF) noted)))) := by
  refine ⟨by decide +kernel, by decide +kernel, by decide +kernel, by decide +kernel, by decide +kernel,
    next_after (by decide +kernel), next_after (by decide +kernel)⟩

theorem witness_RegisterValueIsInRangeAndMonotone :
    (∀ e ∈ Params.standard.scaleTable.toList, e.toNat % 16 ≤ 11) ∧ (35 : Int) ≤ 35 ∧ 130 ≤ 130 ∧ (166 : Int) < 167 ∧
      (0 : Int) ≤ 255 ∧ (255 : Int) ≤ 255 ∧ (0 : Int) ≤ 0 := by decide +kernel

theorem witness_OffsetSplitsAndNoiseIntervalIsPositive :
    (2047 : Int) < 2048 ∧ (2048 : Int) ≤ 2048 ∧ Params.standard.fp = .exact ∧ (0 : Rat) < 1 := by decide +kernel

theorem witness_DirectSoundStepIsEqualTempered :
    (0 : Rat) < 32000 ∧ Params.standard.fp = .exact ∧ 0 < Params.standard.refHz := by decide +kernel

/-- The number `3 - 2^(1/2)`. -/
def threeMinusRoot : Pow2Sum := ⟨[⟨0, 3⟩, ⟨1 / 2, -1⟩]⟩

theorem witness_ExactArithmeticIsRealArithmetic :
    (threeMinusRoot.canonical ∧ Pow2Sum.zero.canonical) ∧ (⟨1 / 2, -1⟩ : Pow2Term).coef ≠ 0 := by
  unfold Pow2Sum.canonical; decide +kernel

theorem witness_RationalBoundsEncloseTheNumber :
    threeMinusRoot.canonical ∧ (threeMinusRoot.lower 8).floor = (threeMinusRoot.upper 8).floor := by
  unfold Pow2Sum.canonical; decide +kernel

/-- A CGB slot in a phase, with the volume and the counter. -/
def cgbIn (p : Phase) (volume counter : Int) : Slot :=
  { holding 0 true with phase := p, envelopeVolume := volume, envelopeCounter := counter }

theorem witness_CgbAttackReachesThePeakOnTime :
    ({ emptyVoice with attack := 1 }).attack.toNat ≠ 0 ∧ (cgbIn .attack 0 1).isCgbVoice = true ∧
      (cgbIn .attack 0 1).phase = .attack ∧ (cgbIn .attack 0 1).envelopeVolume = 0 ∧
      (cgbIn .attack 0 1).envelopeCounter = (({ emptyVoice with attack := 1 }).attack.toNat : Int) ∧
      (cgbIn .attack 0 1).envelopeGoal = 15 ∧ 14 < 15 * ({ emptyVoice with attack := 1 }).attack.toNat := by
  decide +kernel

theorem witness_CgbReleaseEndsOnTime :
    ({ emptyVoice with release := 2 }).release.toNat ≠ 0 ∧ (cgbIn .release 1 2).isCgbVoice = true ∧
      (cgbIn .release 1 2).phase = .release ∧ (cgbIn .release 1 2).active = true ∧
      (cgbIn .release 1 2).envelopeVolume = ((1 : Nat) : Int) ∧ (cgbIn .release 1 2).envelopeGoal = 15 ∧
      (cgbIn .release 1 2).envelopeCounter = (({ emptyVoice with release := 2 }).release.toNat : Int) ∧
      1 < 1 * ({ emptyVoice with release := 2 }).release.toNat ∧ cgbEchoLevel (cgbIn .release 1 2) ≤ 0 ∧
      0 < cgbEchoLevel { cgbIn .release 1 2 with pseudoEchoVol := 1 } ∧ emptyVoice.release.toNat = 0 := by decide +kernel

theorem witness_DirectSoundDecayEnds :
    (let v := { holding 0 false with phase := .decay, envelopeVolume := 255 };
      v.isCgbVoice = false ∧ v.phase = .decay ∧ 0 ≤ v.envelopeVolume ∧ v.envelopeVolume ≤ 255 ∧
        (255 * 1 / 256 : Int) ≤ 0 ∧ (254 : Int) / 256 + 254 < 255 ∧ (1 : Int) < 255 * 2 / 256 + 1) ∧
    (255 : Int) ≤ 0 + ({ emptyVoice with attack := 255 }).attack.toNat ∧
    (0 : Int) + ({ emptyVoice with attack := 254 }).attack.toNat < 255 := by decide +kernel

theorem witness_EnvelopePhasesMoveForward :
    (cgbIn .attack 13 1).isCgbVoice = true ∧ (cgbIn .attack 13 1).envelopeCounter ≤ 1 ∧
      (cgbIn .attack 13 1).envelopeVolume + 1 < (cgbIn .attack 13 1).envelopeGoal ∧
      (cgbIn .attack 14 1).envelopeGoal ≤ (cgbIn .attack 14 1).envelopeVolume + 1 ∧
      1 < (cgbIn .attack 13 2).envelopeCounter ∧ emptyVoice.attack.toNat = 0 ∧ emptyVoice.decay.toNat = 0 ∧
      ({ emptyVoice with attack := 1, decay := 1 }).attack.toNat ≠ 0 ∧
      ({ emptyVoice with attack := 1, decay := 1 }).decay.toNat ≠ 0 ∧
      (cgbIn .decay 16 1).envelopeVolume - 1 ≤ (cgbIn .decay 16 1).sustainGoal ∧
      (cgbIn .decay 17 1).sustainGoal < (cgbIn .decay 17 1).envelopeVolume - 1 ∧
      (cgbIn .sustain 15 0).phase = .sustain ∧ (cgbIn .echo 1 0).pseudoEchoLen ≤ 1 ∧
      1 < ({ cgbIn .echo 1 0 with pseudoEchoLen := 2 }).pseudoEchoLen := by decide +kernel

/-- A running LFO. -/
def running : ModState := { ModState.zero with mod := 64, lfoSpeed := 64 }

theorem witness_LfoPhaseHasItsPeriod :
    running.mod ≠ 0 ∧ running.lfoSpeed ≠ 0 ∧ running.lfoDelayCountdown = 0 := by decide

theorem witness_LfoStepByItsArms :
    ModState.zero.lfoSpeed = 0 ∧ running.lfoSpeed ≠ 0 ∧ running.mod ≠ 0 ∧ running.lfoDelayCountdown.toNat = 0 ∧
      running.mod.toNat ≤ 64 ∧ 0 < ({ running with lfoDelayCountdown := 1 }).lfoDelayCountdown.toNat := by decide

theorem witness_SquareGeneratorComparesThePhase :
    ((playing (holding 0x100 true)).v[0]).active = true ∧ (playing (holding 0x100 true)).platform.params.fp = .exact ∧
      (demo.v[0]).active = false := by decide +kernel

theorem witness_NoiseGeneratorClocksByTheTimer :
    (((playing (holding 0x150 true)).v[0]).active = true ∧ 0 < ((playing (holding 0x150 true)).v[0]).noiseInterval ∧
      0 ≤ ((playing (holding 0x150 true)).v[0]).noiseTimer) ∧
    noiseTurns .exact 1 8 = 0 ∧ noiseTurns .exact (7 + 1) 8 = 1 ∧ demo.platform.params.fp = .exact := by decide +kernel

theorem witness_ShiftRegisterNeverEmpties :
    (0x7FFF : BitVec 16).getLsbD 15 = false ∧ (0x7FFF : BitVec 16) ≠ 0 ∧ (1 : BitVec 16) &&& 0x7F#16 ≠ 0 := by decide

/-- Slot 0 at position `q` and step `d` of the sample of the record at `ref`. -/
def reading (ref : Word32) (cgb : Bool) (q d : Rat) : State :=
  playing { holding ref cgb with samplePos := .ofRat q, sampleStep := .ofRat d }

theorem witness_DirectSoundGeneratorInterpolates :
    (((reading 0x120 false 3 1).v[0]).active = true ∧
      sampleOfVoice demo.platform (readVoice demo.platform ((reading 0x120 false 3 1).v[0]).voiceRef) = some (wave true) ∧
      demo.platform.params.dsEdge = .standard ∧ demo.platform.params.fp = .exact ∧ 0 < (wave true).numSamples ∧
      ((reading 0x120 false 3 1).v[0]).samplePos = .ofRat 3 ∧ ((reading 0x120 false 3 1).v[0]).sampleStep = .ofRat 1 ∧
      ((wave true).numSamples : Rat) ≤ 3 + 1 ∧ (wave true).isLooped = true ∧
      (wave true).loopStart < (wave true).numSamples) ∧
    ((3 : Rat) + 1 / 2 < (wave true).numSamples ∧
      ((reading 0x120 false 3 (1 / 2)).v[0]).sampleStep = .ofRat (1 / 2)) ∧
    (sampleOfVoice demo.platform (readVoice demo.platform ((reading 0x130 false 3 1).v[0]).voiceRef) =
        some (wave false) ∧ (wave false).isLooped = false ∧ ((wave false).numSamples : Rat) ≤ 3 + 1) := by
  decide +kernel

/-- Slot 0 at position `q` of the sample of the record at `ref`, at the step `2^(1/2)`, which is not rational. -/
def rooting (ref : Word32) (q : Rat) : Slot :=
  { holding ref false with samplePos := .ofRat q, sampleStep := .monomial 1 (1 / 2) }

theorem rooting_real (ref : Word32) (q : Rat) :
    (rooting ref q).samplePos.toReal + (rooting ref q).sampleStep.toReal = q + √2 := by
  have hs : (rooting ref q).sampleStep = ⟨[⟨1 / 2, 1⟩]⟩ := by
    change Pow2Sum.monomial 1 (1 / 2) = _; decide +kernel
  rw [show (rooting ref q).samplePos = .ofRat q from rfl, hs, Pow2Sum.ofRat_eq]
  by_cases hq : q = 0 <;> simp [Pow2Sum.toReal, Pow2Term.toReal, hq, Real.sqrt_eq_rpow]

theorem root_bounds : 1 < √(2 : ℝ) ∧ √(2 : ℝ) < 2 :=
  ⟨by rw [Real.lt_sqrt] <;> norm_num, by rw [Real.sqrt_lt'] <;> norm_num⟩

/- Positions that are not rational: before the end from 0, past it from 3, looped and not. -/
theorem witness_DirectSoundGeneratorInterpolates_real :
    (let v := rooting 0x120 0
     v.active = true ∧ sampleOfVoice demo.platform (readVoice demo.platform v.voiceRef) = some (wave true) ∧
      (v.samplePos.add v.sampleStep).floor = ⌊v.samplePos.toReal + v.sampleStep.toReal⌋ ∧
      v.samplePos.toReal + v.sampleStep.toReal < ((wave true).numSamples : ℝ)) ∧
    (let v := rooting 0x120 3
     let p : ℝ := v.samplePos.toReal + v.sampleStep.toReal
     let pos := v.samplePos.add v.sampleStep
     pos.floor = ⌊p⌋ ∧ ((wave true).numSamples : ℝ) ≤ p ∧ (wave true).isLooped = true ∧ (wave true).loopStart = 0 ∧
      ((pos.sub (.ofRat ((0 : Nat) : Rat))).scale (1 / ((4 : Nat) : Rat))).floor = ⌊(p - ((0 : Nat) : ℝ)) / ((4 : Nat) : ℝ)⌋ ∧
      (loopWrap .exact (wave true) pos).floor = ⌊p - 4⌋) ∧
    (let v := rooting 0x130 3
     sampleOfVoice demo.platform (readVoice demo.platform v.voiceRef) = some (wave false) ∧ (wave false).isLooped = false ∧
      (v.samplePos.add v.sampleStep).floor = ⌊v.samplePos.toReal + v.sampleStep.toReal⌋ ∧
      ((wave false).numSamples : ℝ) ≤ v.samplePos.toReal + v.sampleStep.toReal) := by
  have hr := root_bounds
  have hn : (wave true).numSamples = 4 ∧ (wave false).numSamples = 4 := by decide
  have h0 : ⌊((0 : Rat) : ℝ) + √2⌋ = 1 := by rw [Int.floor_eq_iff]; push_cast; constructor <;> linarith
  have h3 : ⌊((3 : Rat) : ℝ) + √2⌋ = 4 := by rw [Int.floor_eq_iff]; push_cast; constructor <;> linarith
  have hturns : ⌊(((3 : Rat) : ℝ) + √2 - ((0 : Nat) : ℝ)) / ((4 : Nat) : ℝ)⌋ = 1 := by
    rw [Int.floor_eq_iff]; push_cast; constructor <;> linarith
  have hwrap : ⌊((3 : Rat) : ℝ) + √2 - 4⌋ = 0 := by rw [Int.floor_eq_iff]; push_cast; constructor <;> linarith
  have hend : (4 : ℝ) ≤ ((3 : Rat) : ℝ) + √2 := by push_cast; linarith
  simp only [rooting_real, hn, h0, h3, hturns, hwrap]
  refine ⟨⟨by decide +kernel, by decide +kernel, by decide +kernel, ?_⟩, ⟨by decide +kernel, ?_, rfl, rfl, by decide +kernel,
    by decide +kernel⟩, by decide +kernel, rfl, by decide +kernel, ?_⟩
  · push_cast; linarith
  · exact_mod_cast hend
  · exact_mod_cast hend

theorem witness_ProgWaveGeneratorCycles :
    ((reading 0x140 true 4 (1 / 2)).v[0]).active = true ∧
      sampleOfVoice demo.platform (readVoice demo.platform ((reading 0x140 true 4 (1 / 2)).v[0]).voiceRef) =
        some (wave true) ∧ demo.platform.params.fp = .exact ∧ 0 < (wave true).numSamples ∧
      ((reading 0x140 true 4 (1 / 2)).v[0]).samplePos = .ofRat 4 ∧
      ((reading 0x140 true 4 (1 / 2)).v[0]).sampleStep = .ofRat (1 / 2) := by decide +kernel

theorem witness_SampleGeneratorsAlwaysComplete :
    ((playing (holding 0x160 false)).v[0]).active = true ∧
      sampleOfVoice demo.platform (readVoice demo.platform ((playing (holding 0x160 false)).v[0]).voiceRef) = none ∧
      ((playing (holding 0x1B0 false)).v[0]).active = true ∧
      sampleOfVoice demo.platform (readVoice demo.platform ((playing (holding 0x1B0 false)).v[0]).voiceRef) =
        some ⟨16000, 0, 0, false, false, []⟩ ∧
      demo.platform.params.emptyEnds = false ∧ ({ demo.platform.params with emptyEnds := true }).emptyEnds = true := by
  decide +kernel

/-- The demo state with a blob of `len` bytes at `a` to decode. -/
def decoding (a len : Word32) : State := { demo with decAddr := a, decLen := len }

theorem witness_RawDecoderCopiesThePayload :
    (16 ≤ (decoding 1008 16).decLen.toNat ∧
      (decoding 1008 16).decAddr.toNat + (decoding 1008 16).decLen.toNat ≤ demo.platform.params.bankSize) ∧
    (readVoice demo.platform 0x160).sampleAddr = 0xFFFFFFFF ∧ (readVoice demo.platform 0x120).sampleAddr ≠ 0xFFFFFFFF ∧
    ¬(16 ≤ (decoding 0 15).decLen.toNat) ∧
    ¬((decoding 1009 16).decAddr.toNat + (decoding 1009 16).decLen.toNat ≤ demo.platform.params.bankSize) := by
  decide +kernel

theorem witness_DeltaDecoderSumsTheDeltas :
    16 ≤ (decoding 0x200 18).decLen.toNat ∧
      (decoding 0x200 18).decAddr.toNat + (decoding 0x200 18).decLen.toNat ≤ demo.platform.params.bankSize := by
  decide +kernel

theorem witness_RenderCompletesAndMayBeCut :
    noted.sampleRate = some 32768 ∧ (1 : Word32).toNat + (1 : Word32).toNat = (2 : Word32).toNat ∧
      exec (.render 1) noted = .next (after (exec (.render 1) noted)) := by
  refine ⟨by decide +kernel, by decide, next_after (by decide +kernel)⟩

theorem witness_FrameAccumulatorCountsTheTicks :
    (noted.sampleRate = some 32768 ∧ noted.platform.params.fp = .exact) ∧
      exec (.render 1) noted = .next (after (exec (.render 1) noted)) ∧
      1 ≤ (32768 : Rat) / (597275 / 10000) ∧ 0 ≤ noted.frameAcc ∧ noted.frameAcc < 32768 / (597275 / 10000) := by
  refine ⟨by decide +kernel, next_after (by decide +kernel), by decide +kernel, by decide +kernel, by decide +kernel⟩

theorem witness_BetweenTicksOnlyOscillatorsMove :
    (noted.sampleRate = some 32768 ∧ noted.platform.params.fp = .exact) ∧
      noted.frameAcc + ((548 : Word32).toNat : Rat) < 32768 / (597275 / 10000) ∧
      exec (.render 2) noted = .next (after (exec (.render 2) noted)) := by
  refine ⟨by decide +kernel, by decide +kernel, next_after (by decide +kernel)⟩

/-- The note of P1 one frame before the tick. -/
def due : State := noted.withFrameAcc 548

theorem witness_DueTickStepsLfoAndEnvelope :
    (due.sampleRate = some 32768 ∧ due.platform.params.fp = .exact ∧ 0 < due.platform.params.refHz) ∧
      (32768 : Rat) / (597275 / 10000) ≤ due.frameAcc + 1 ∧
      exec (.render 1) due = .next (after (exec (.render 1) due)) ∧ (due.v[0]).active = true ∧
      (envelopeStep (readVoice due.platform (due.v[0]).voiceRef) (due.v[0])).active = true ∧
      (due.ch[0]).modState.modType = 0 ∧
      (let s := due.setChannel 0 { due.ch[0] with modState := running };
        (s.ch[0]).modState.modType = 0 ∧ (lfoStep (s.ch[0]).modState).modM ≠ (s.ch[0]).modState.modM) := by
  refine ⟨by decide +kernel, by decide +kernel, next_after (by decide +kernel), by decide +kernel, by decide +kernel,
    by decide +kernel, by decide +kernel⟩

/-- Two voices, the square of P1 in slot 0 and a DirectSound voice in slot 5. -/
def duet : State := noted.setSlot 5 (holding 0x120 false)

/- With no tick due and, at `due`, with one; with two active voices. -/
theorem witness_OneVoiceIsMixedByItsGains :
    (readVoice noted.platform (noted.v[0]).voiceRef).kind = .square2 ∧ duet.platform.params.fp = .exact ∧
      duet.sampleRate = some 32768 ∧ duet.frameAcc + 1 < 32768 / (597275 / 10000) ∧
      (duet.v[0]).active = true ∧ (duet.v[5]).active = true ∧
      due.sampleRate = some 32768 ∧ due.platform.params.fp = .exact ∧
      (32768 : Rat) / (597275 / 10000) ≤ due.frameAcc + 1 := by decide +kernel

/- Two contributions a side, in slot order: 1/2 of slot 0 and, from pcm 0, 0 of slot 5. -/
theorem test_mix_order :
    ((after (exec (.render 1) duet)).audio.map Frame.left) =
      [.clip [⟨.ofRat (1 / 16), 1 / 2⟩, ⟨.zero, 1 / 2⟩]] := by decide +kernel

theorem witness_SilenceWithoutVoices :
    demo.platform.params.fp = .exact ∧ (∀ i : Fin 24, (demo.v[i.val]).active = false) ∧
      exec (.render 1) demo = .next (after (exec (.render 1) demo)) ∧
      ({ holding 0x100 true with velocity := 0 }).velocity = 0 := by
  refine ⟨rfl, by decide +kernel, next_after (by decide +kernel), rfl⟩

theorem witness_AudioIsClipped :
    (noted.platform.params.fp = .exact ∧ exec (.render 1) noted = .next (after (exec (.render 1) noted)) ∧
      (after (exec (.render 1) noted)).audio.drop noted.audio.length ≠ []) ∧
    |(([] : List AudioTerm).map AudioTerm.toReal).sum| ≤ 1 := by
  refine ⟨⟨by decide +kernel, next_after (by decide +kernel), by decide +kernel⟩, by simp⟩

/-- The note of P1 with a RENDER of one frame waiting. -/
def audible : State := { noted with audioQueue := [0x8000000000000001] }

theorem witness_StepKeepsThePoolConsistent :
    audible.poolConsistent ∧ step audible = .next (after (step audible)) :=
  ⟨by unfold State.poolConsistent Slot.offIffInactive; decide +kernel, next_after (by decide +kernel)⟩

theorem witness_StepKeepsTheEnvelopesInRange :
    audible.envelopesInRange ∧ step audible = .next (after (step audible)) :=
  ⟨by unfold State.envelopesInRange Slot.envelopeInRange; decide +kernel, next_after (by decide +kernel)⟩

theorem witness_StepKeepsTheBendsTogether :
    audible.bendsAgree ∧ step audible = .next (after (step audible)) :=
  ⟨by unfold State.bendsAgree; decide +kernel, next_after (by decide +kernel)⟩

theorem witness_StepKeepsTheEngineLegal :
    audible.platform.params.fp = .exact ∧ audible.clocksLegal ∧ audible.mixLegal ∧ audible.generatorsLegal ∧ step audible = .next (after (step audible)) := by
  refine ⟨by decide +kernel, ⟨?_, by decide +kernel⟩, ?_, ?_, next_after (by decide +kernel)⟩
  · intro r hr
    have h : audible.sampleRate = some 32768 := by decide +kernel
    rw [h] at hr
    cases hr
    norm_num
  · unfold State.mixLegal; decide +kernel
  · unfold State.generatorsLegal Slot.generatorLegal; decide +kernel

end Sys2Proof.Tests
end

section
/-! PROOFS. No operation writes the bank or a parameter (rules R53, R64): each operation that answers a next state keeps the
platform. -/

namespace Sys2Proof.Machine

/-- A next state whose platform is known is the state answered. -/
theorem next_platform {s t u : State} (h : (.next u : Host.Outcome State Fault Refusal) = .next t)
    (hu : u.platform = s.platform) : t.platform = s.platform := by
  cases h
  exact hu

theorem drop_platform {s t : State} (h : drop s = .next t) : t.platform = s.platform :=
  congrArg State.platform (drop_next h)

theorem controlChange_platform {ch : Byte} {f : Channel → Channel} {s t : State}
    (h : controlChange ch f s = .next t) : t.platform = s.platform := by
  obtain ⟨-, rfl⟩ | ⟨c, -, rfl⟩ := controlChange_next h
  · rfl
  · rfl

@[simp] theorem stepGenerator_platform (gen : Slot → Slot × Pow2Sum) (s : State) :
    (stepGenerator gen s).platform = s.platform := by
  cases h : (s.v[s.genSlot.val]).active with
  | false => rw [stepGenerator_inactive h]
  | true => rw [stepGenerator_active h]

@[simp] theorem renderFrame_platform (rate : Rat) (s : State) : (renderFrame rate s).1.platform = s.platform := by
  rw [renderFrame_frame]

@[simp] theorem renderState_platform (rate : Rat) (n : Nat) (s : State) :
    (renderState rate n s).platform = s.platform :=
  renderFrames_keeps (P := fun u => u.platform = s.platform)
    (fun u hu => (renderFrame_platform rate u).trans hu) n s rfl

theorem execSetRate_platform {rateHz : Word32} {s t : State} (h : execSetRate rateHz s = .next t) :
    t.platform = s.platform := by
  unfold execSetRate at h
  split at h
  · exact drop_platform h
  · exact next_platform h rfl

theorem execNoteOn_platform {r : Bool} {ch : Byte} {note velocity : BitVec 7} {ref : Word32} {s t : State}
    (h : execNoteOn r ch note velocity ref s = .next t) : t.platform = s.platform := by
  unfold execNoteOn at h
  split at h
  · cases h
  · split at h
    · exact drop_platform h
    · dsimp only at h
      split at h
      · split at h
        · exact next_platform h rfl
        · cases h
      · exact drop_platform h

theorem execCcAlloff_platform {ch : Byte} {value : BitVec 7} {s t : State} (h : execCcAlloff ch value s = .next t) :
    t.platform = s.platform := by
  unfold execCcAlloff at h
  split at h
  · exact drop_platform h
  · exact next_platform h rfl

theorem execPbend_platform {ch : Byte} {bend : BitVec 16} {s t : State} (h : execPbend ch bend s = .next t) :
    t.platform = s.platform := by
  unfold execPbend at h
  split at h
  · cases h
  · split at h
    · exact drop_platform h
    · exact next_platform h rfl

theorem execRender_platform {n : Word32} {s t : State} (h : execRender n s = .next t) : t.platform = s.platform := by
  unfold execRender at h
  split at h
  · cases h
  · exact next_platform h (renderState_platform _ _ s)

/-- Every operation keeps the bank and the parameters (rules R53, R64). -/
theorem exec_platform {i : Instr} {s t : State} (h : exec i s = .next t) : t.platform = s.platform := by
  cases i with
  | reset => exact next_platform h rfl
  | setRate rateHz => exact execSetRate_platform h
  | noteOn r ch note velocity ref => exact execNoteOn_platform h
  | noteOff ch note => exact next_platform h rfl
  | allOff ch => exact next_platform h rfl
  | ccMod ch value | ccBendr ch value | ccVol ch value | ccPan ch value | ccLfos ch value | ccModt ch value
  | ccTune ch value | ccLfodl ch value | ccXcmd ch value | ccXcmdtype ch value =>
    unfold exec at h
    exact controlChange_platform h
  | ccAlloff ch value => exact execCcAlloff_platform (value := value) h
  | pbend ch bend => exact execPbend_platform h
  | render n => exact execRender_platform h
  | decodeRaw looped | decodeDpcm looped => exact next_platform h rfl
  | voiceDirectsound | voiceSquare1 | voiceSquare2 | voiceProgwave | voiceNoise =>
    exact next_platform h (stepGenerator_platform _ s)
  | ccOther ch controller value => exact drop_platform h
  | voiceEmpty | voiceKeysplit | voiceKeysplitall => exact drop_platform h

/-- Settles O8: every operation keeps the platform, which holds the bank. -/
theorem noOperationWritesTheBank : Obligations.NoOperationWritesTheBank := by
  intro i s t h
  have hp : t.platform = s.platform := exec_platform h
  exact ⟨hp, fun a => by rw [hp]⟩

end Sys2Proof.Machine
end

section
/-! PROOFS. The operations on exact reals are those of the real numbers, and keep the canonical form (rule R12). -/

namespace Sys2Proof

/-! ## Values -/

@[simp] theorem Pow2Sum.toReal_nil : (Pow2Sum.mk []).toReal = 0 := by simp [Pow2Sum.toReal]

@[simp] theorem Pow2Sum.toReal_zero : Pow2Sum.zero.toReal = 0 := Pow2Sum.toReal_nil

@[simp] theorem Pow2Sum.toReal_cons (t : Pow2Term) (ts : List Pow2Term) :
    (Pow2Sum.mk (t :: ts)).toReal = t.toReal + (Pow2Sum.mk ts).toReal := by simp [Pow2Sum.toReal]

theorem Pow2Term.toReal_of_coef_zero {t : Pow2Term} (h : t.coef = 0) : t.toReal = 0 := by simp [Pow2Term.toReal, h]

/-- Terms with one exponent add by their coefficients. -/
theorem Pow2Term.toReal_add {t u : Pow2Term} (h : t.exp = u.exp) :
    (Pow2Term.mk u.exp (t.coef + u.coef)).toReal = t.toReal + u.toReal := by
  simp only [Pow2Term.toReal, h]
  push_cast
  ring

/-- The value of a monomial, in whatever way its power of two is split. -/
theorem Pow2Sum.monomial_toReal (q e : Rat) : (Pow2Sum.monomial q e).toReal = (q : ℝ) * (2 : ℝ) ^ (e : ℝ) := by
  by_cases hq : q = 0
  · simp [hq]
  · have hpow : (2 : ℝ) ^ e.floor * (2 : ℝ) ^ ((e : ℝ) - e.floor) = (2 : ℝ) ^ (e : ℝ) := by
      rw [← Real.rpow_intCast, ← Real.rpow_add two_pos]
      congr 1
      ring
    simp [Pow2Sum.monomial_eq, hq, Pow2Term.toReal, mul_assoc, hpow]

theorem Pow2Sum.insertTerm_toReal (t : Pow2Term) (ts : List Pow2Term) :
    (Pow2Sum.mk (Pow2Sum.insertTerm t ts)).toReal = t.toReal + (Pow2Sum.mk ts).toReal := by
  induction ts with
  | nil =>
    by_cases hc : t.coef = 0
    · simp [Pow2Sum.insertTerm, hc, Pow2Term.toReal_of_coef_zero hc]
    · simp [Pow2Sum.insertTerm, hc]
  | cons u us ih =>
    unfold Pow2Sum.insertTerm
    split
    · split
      case isTrue hc => simp [Pow2Term.toReal_of_coef_zero hc]
      case isFalse => simp
    · split
      case isTrue he =>
        have hadd := Pow2Term.toReal_add he
        split
        case isTrue hc =>
          rw [Pow2Term.toReal_of_coef_zero hc] at hadd
          simp only [Pow2Sum.toReal_cons]
          linarith
        case isFalse => simp only [Pow2Sum.toReal_cons, hadd, add_assoc]
      case isFalse =>
        simp only [Pow2Sum.toReal_cons, ih]
        ring

theorem Pow2Sum.add_toReal (x y : Pow2Sum) : (x.add y).toReal = x.toReal + y.toReal := by
  obtain ⟨ts⟩ := x
  induction ts with
  | nil => simp [Pow2Sum.add]
  | cons t ts ih =>
    calc ((Pow2Sum.mk (t :: ts)).add y).toReal
        = t.toReal + ((Pow2Sum.mk ts).add y).toReal := Pow2Sum.insertTerm_toReal t _
      _ = (Pow2Sum.mk (t :: ts)).toReal + y.toReal := by rw [ih, Pow2Sum.toReal_cons, add_assoc]

theorem Pow2Sum.scale_toReal (q : Rat) (x : Pow2Sum) : (x.scale q).toReal = (q : ℝ) * x.toReal := by
  by_cases hq : q = 0
  · simp [hq]
  · have hterm (t : Pow2Term) : (Pow2Term.mk t.exp (q * t.coef)).toReal = (q : ℝ) * t.toReal := by
      simp [Pow2Term.toReal, mul_assoc]
    simp [Pow2Sum.scale, hq, Pow2Sum.toReal, Function.comp_def, hterm, List.sum_map_mul_left]

/-- The value of a sum built term by term. -/
theorem Pow2Sum.foldr_add_toReal (f : Pow2Term → Pow2Sum) (ts : List Pow2Term) :
    (ts.foldr (fun t acc => (f t).add acc) .zero).toReal = (ts.map fun t => (f t).toReal).sum := by
  induction ts with
  | nil => simp
  | cons t ts ih => simp [Pow2Sum.add_toReal, ih]

theorem Pow2Term.toReal_mul (t u : Pow2Term) :
    ((t.coef * u.coef : Rat) : ℝ) * (2 : ℝ) ^ ((t.exp + u.exp : Rat) : ℝ) = t.toReal * u.toReal := by
  simp only [Pow2Term.toReal, Rat.cast_add, Real.rpow_add two_pos]
  push_cast
  ring

theorem Pow2Sum.mulTerm_toReal (t : Pow2Term) (y : Pow2Sum) : (Pow2Sum.mulTerm t y).toReal = t.toReal * y.toReal := by
  simp only [Pow2Sum.mulTerm, Pow2Sum.foldr_add_toReal, Pow2Sum.monomial_toReal, Pow2Term.toReal_mul,
    List.sum_map_mul_left]
  rfl

theorem Pow2Sum.mul_toReal (x y : Pow2Sum) : (x.mul y).toReal = x.toReal * y.toReal := by
  simp only [Pow2Sum.mul, Pow2Sum.foldr_add_toReal, Pow2Sum.mulTerm_toReal, List.sum_map_mul_right]
  rfl

theorem Pow2Sum.inv_toReal (t : Pow2Term) : (Pow2Sum.inv ⟨[t]⟩).toReal = (Pow2Sum.mk [t]).toReal⁻¹ := by
  simp [Pow2Sum.inv, Pow2Sum.monomial_toReal, Pow2Term.toReal, Real.rpow_neg, mul_comm]

theorem Pow2Sum.normal_toReal (x : Pow2Sum) : x.normal.toReal = x.toReal := by
  simp only [Pow2Sum.normal, Pow2Sum.foldr_add_toReal, Pow2Sum.monomial_toReal]
  rfl

/-! ## The canonical form -/

theorem Pow2Sum.canonical_zero : Pow2Sum.zero.canonical := by simp [Pow2Sum.canonical, Pow2Sum.zero]

theorem Pow2Sum.canonical_cons (t : Pow2Term) (ts : List Pow2Term) :
    (Pow2Sum.mk (t :: ts)).canonical ↔
      (∀ u ∈ ts, t.exp < u.exp) ∧ (0 ≤ t.exp ∧ t.exp < 1 ∧ t.coef ≠ 0) ∧ (Pow2Sum.mk ts).canonical := by
  simp only [Pow2Sum.canonical, List.pairwise_cons, List.forall_mem_cons]
  tauto

theorem Pow2Sum.monomial_canonical (q e : Rat) : (Pow2Sum.monomial q e).canonical := by
  by_cases hq : q = 0
  · rw [hq, Pow2Sum.monomial_zero]
    exact Pow2Sum.canonical_zero
  · have hlo : (e.floor : Rat) ≤ e := Int.floor_le e
    have hhi : e < e.floor + 1 := Int.lt_floor_add_one e
    have hc : q * (2 : Rat) ^ e.floor ≠ 0 := mul_ne_zero hq (zpow_ne_zero _ two_ne_zero)
    rw [Pow2Sum.monomial_eq, if_neg hq, Pow2Sum.canonical_cons]
    exact ⟨by simp, ⟨by linarith, by linarith, hc⟩, Pow2Sum.canonical_zero⟩

/-- Inserting brings in no exponent but that of the term. -/
theorem Pow2Sum.lt_exp_insertTerm {e : Rat} {t : Pow2Term} {ts : List Pow2Term} (ht : e < t.exp)
    (hts : ∀ u ∈ ts, e < u.exp) : ∀ u ∈ Pow2Sum.insertTerm t ts, e < u.exp := by
  induction ts with
  | nil => by_cases hc : t.coef = 0 <;> simp [Pow2Sum.insertTerm, hc, ht]
  | cons w ws ih =>
    obtain ⟨hw, hws⟩ := List.forall_mem_cons.1 hts
    unfold Pow2Sum.insertTerm
    split
    · split
      · exact hts
      · exact List.forall_mem_cons.2 ⟨ht, hts⟩
    · split
      · split
        · exact hws
        · exact List.forall_mem_cons.2 ⟨hw, hws⟩
      · exact List.forall_mem_cons.2 ⟨hw, ih hws⟩

theorem Pow2Sum.insertTerm_canonical {t : Pow2Term} (h0 : 0 ≤ t.exp) (h1 : t.exp < 1) {ts : List Pow2Term}
    (hts : (Pow2Sum.mk ts).canonical) : (Pow2Sum.mk (Pow2Sum.insertTerm t ts)).canonical := by
  induction ts with
  | nil =>
    unfold Pow2Sum.insertTerm
    split
    · exact hts
    case isFalse hc => exact (Pow2Sum.canonical_cons t []).2 ⟨by simp, ⟨h0, h1, hc⟩, hts⟩
  | cons u us ih =>
    obtain ⟨hlt, ⟨hu0, hu1, huc⟩, hus⟩ := (Pow2Sum.canonical_cons u us).1 hts
    unfold Pow2Sum.insertTerm
    split
    case isTrue htu =>
      split
      · exact hts
      case isFalse hc =>
        have hall : ∀ w ∈ u :: us, t.exp < w.exp :=
          List.forall_mem_cons.2 ⟨htu, fun w hw => htu.trans (hlt w hw)⟩
        exact (Pow2Sum.canonical_cons t _).2 ⟨hall, ⟨h0, h1, hc⟩, hts⟩
    case isFalse htu =>
      split
      · split
        · exact hus
        case isFalse hc => exact (Pow2Sum.canonical_cons _ us).2 ⟨hlt, ⟨hu0, hu1, hc⟩, hus⟩
      case isFalse hne =>
        have hut : u.exp < t.exp := lt_of_le_of_ne (not_lt.1 htu) (Ne.symm hne)
        exact (Pow2Sum.canonical_cons u _).2 ⟨Pow2Sum.lt_exp_insertTerm hut hlt, ⟨hu0, hu1, huc⟩, ih hus⟩

theorem Pow2Sum.add_canonical {x y : Pow2Sum} (hx : x.canonical) (hy : y.canonical) : (x.add y).canonical := by
  obtain ⟨ts⟩ := x
  induction ts with
  | nil => exact hy
  | cons t ts ih =>
    obtain ⟨-, ⟨h0, h1, -⟩, hts⟩ := (Pow2Sum.canonical_cons t ts).1 hx
    exact Pow2Sum.insertTerm_canonical h0 h1 (ih hts)

theorem Pow2Sum.scale_canonical (q : Rat) {x : Pow2Sum} (hx : x.canonical) : (x.scale q).canonical := by
  obtain ⟨hlt, hterm⟩ := hx
  unfold Pow2Sum.scale
  split
  · exact Pow2Sum.canonical_zero
  case isFalse hq =>
    refine ⟨List.pairwise_map.2 hlt, List.forall_mem_map.2 fun t ht => ?_⟩
    obtain ⟨h0, h1, hc⟩ := hterm t ht
    exact ⟨h0, h1, mul_ne_zero hq hc⟩

theorem Pow2Sum.foldr_add_canonical {f : Pow2Term → Pow2Sum} (hf : ∀ t, (f t).canonical) (ts : List Pow2Term) :
    (ts.foldr (fun t acc => (f t).add acc) .zero).canonical := by
  induction ts with
  | nil => exact Pow2Sum.canonical_zero
  | cons t ts ih => exact Pow2Sum.add_canonical (hf t) ih

theorem Pow2Sum.mul_canonical (x y : Pow2Sum) : (x.mul y).canonical :=
  Pow2Sum.foldr_add_canonical
    (fun _ => Pow2Sum.foldr_add_canonical (fun _ => Pow2Sum.monomial_canonical _ _) y.terms) x.terms

theorem Pow2Sum.normal_canonical (x : Pow2Sum) : x.normal.canonical :=
  Pow2Sum.foldr_add_canonical (fun _ => Pow2Sum.monomial_canonical _ _) x.terms

/-! ## The floor of a rational number -/

/-- A rational number is in canonical form already. -/
theorem Pow2Sum.ofRat_normal (q : Rat) : (Pow2Sum.ofRat q).normal = .ofRat q := by
  by_cases hq : q = 0
  · simp [hq, Pow2Sum.normal, Pow2Sum.zero]
  · rw [Pow2Sum.ofRat_eq, if_neg hq]
    change (Pow2Sum.monomial q 0).add .zero = _
    rw [Pow2Sum.monomial_add_zero, ← Pow2Sum.ofRat, Pow2Sum.ofRat_eq, if_neg hq]

theorem Pow2Sum.ofRat_floor (q : Rat) : (Pow2Sum.ofRat q).floor = q.floor := by
  rw [Pow2Sum.floor, Pow2Sum.ofRat_normal, Pow2Sum.ofRat_eq]
  by_cases hq : q = 0
  · rw [if_pos hq, hq]
    rfl
  · rw [if_neg hq]
    rfl

/-- Settles O34: each operation by its value and its canonical form. -/
theorem exactArithmeticIsRealArithmetic : Obligations.ExactArithmeticIsRealArithmetic :=
  ⟨fun q e => ⟨Pow2Sum.monomial_toReal q e, Pow2Sum.monomial_canonical q e⟩,
    fun x y => ⟨Pow2Sum.add_toReal x y, Pow2Sum.add_canonical⟩,
    fun q x => ⟨Pow2Sum.scale_toReal q x, Pow2Sum.scale_canonical q⟩,
    fun x y => ⟨Pow2Sum.mul_toReal x y, Pow2Sum.mul_canonical x y⟩,
    fun t _ => ⟨Pow2Sum.inv_toReal t, Pow2Sum.monomial_canonical _ _⟩,
    fun x => ⟨Pow2Sum.normal_toReal x, Pow2Sum.normal_canonical x⟩,
    Pow2Sum.ofRat_floor⟩

namespace Machine

/-- Settles O33: in exact reals the step is one monomial, in which `REF_HZ` has cancelled. -/
theorem directSoundStepIsEqualTempered : Obligations.DirectSoundStepIsEqualTempered := by
  intro p rate vo smp key total _ hfp href
  refine ⟨rfl, ?_⟩
  rw [dsStep_exact hfp href.ne', Pow2Sum.monomial_toReal]
  push_cast
  ring

end Machine

end Sys2Proof
end

section
/-! PROOFS. The rational bounds from which a floor is found enclose the number (rule R12): integer roots, then bounds of a
power of two, of a term, of a sum. -/

namespace Sys2Proof

/-! ## Integer roots -/

theorem rootSearch_pow_le {m x : Nat} (i : Nat) {r : Nat} (hr : r ^ m ≤ x) : rootSearch m x i r ^ m ≤ x := by
  induction i generalizing r with
  | zero => exact hr
  | succ i ih =>
    apply ih
    split
    case isTrue hle => exact hle
    case isFalse => exact hr

theorem lt_rootSearch_succ_pow {m x : Nat} (i : Nat) {r : Nat} (hr : x < (r + 2 ^ i) ^ m) :
    x < (rootSearch m x i r + 1) ^ m := by
  induction i generalizing r with
  | zero => simpa [rootSearch] using hr
  | succ i ih =>
    apply ih
    split
    case isTrue => rwa [add_assoc, ← two_mul, ← pow_succ']
    case isFalse hgt => exact not_le.1 hgt

theorem rootSearch_lt (m x i r : Nat) : rootSearch m x i r < r + 2 ^ i := by
  induction i generalizing r with
  | zero => simp [rootSearch]
  | succ i ih =>
    rw [rootSearch, pow_succ]
    split
    case isTrue =>
      have := ih (r + 2 ^ i)
      omega
    case isFalse =>
      have := ih r
      omega

/-- The integer root is not above the root. -/
theorem natRoot_pow_le {m : Nat} (hm : m ≠ 0) (x bits : Nat) : natRoot m x bits ^ m ≤ x :=
  rootSearch_pow_le bits (by simp [hm])

/-- The root is less than one above the integer root. -/
theorem lt_natRoot_succ_pow {m x bits : Nat} (h : x < (2 ^ bits) ^ m) : x < (natRoot m x bits + 1) ^ m :=
  lt_rootSearch_succ_pow bits (by simpa using h)

theorem natRoot_succ_le (m x bits : Nat) : natRoot m x bits + 1 ≤ 2 ^ bits := by
  have := rootSearch_lt m x bits 0
  rw [natRoot]
  omega

/-! ## Bounds of a power of two -/

/-- The pair `b` encloses `2^(a / n)` in units of `2^-k`, said of `n`-th powers. -/
def EnclosesPow (k n a : Nat) (b : Nat × Nat) : Prop := b.1 ^ n ≤ 2 ^ (a + k * n) ∧ 2 ^ (a + k * n) ≤ b.2 ^ n

theorem enclosesPow_real {k n a : Nat} {b : Nat × Nat} (hn : n ≠ 0) (h : EnclosesPow k n a b) :
    (b.1 : ℝ) ≤ 2 ^ k * (2 : ℝ) ^ ((a : ℝ) / n) ∧ 2 ^ k * (2 : ℝ) ^ ((a : ℝ) / n) ≤ b.2 := by
  obtain ⟨hlo, hhi⟩ := h
  have hroot : ((2 : ℝ) ^ ((a : ℝ) / n)) ^ n = 2 ^ a := by
    rw [← Real.rpow_mul_natCast two_pos.le, div_mul_cancel₀ _ (Nat.cast_ne_zero.2 hn), Real.rpow_natCast]
  have hpow : (2 ^ k * (2 : ℝ) ^ ((a : ℝ) / n)) ^ n = 2 ^ (a + k * n) := by
    rw [mul_pow, hroot, ← pow_mul, pow_add, mul_comm]
  have hpos : (0 : ℝ) ≤ 2 ^ k * (2 : ℝ) ^ ((a : ℝ) / n) := by positivity
  constructor
  · rw [← pow_le_pow_iff_left₀ (Nat.cast_nonneg _) hpos hn, hpow]
    exact_mod_cast hlo
  · rw [← pow_le_pow_iff_left₀ hpos (Nat.cast_nonneg _) hn, hpow]
    exact_mod_cast hhi

/-- An integer root encloses: the base of `rootPowBounds`. -/
theorem enclosesPow_natRoot {k m a : Nat} (ha : a < m) :
    EnclosesPow k m a (natRoot m (2 ^ (a + k * m)) (k + 2), natRoot m (2 ^ (a + k * m)) (k + 2) + 1) := by
  have hsize : 2 ^ (a + k * m) < (2 ^ (k + 2)) ^ m := by
    rw [← pow_mul]
    exact Nat.pow_lt_pow_right one_lt_two (by nlinarith)
  exact ⟨natRoot_pow_le (by omega) _ _, (lt_natRoot_succ_pow hsize).le⟩

/-- A square root of an enclosing pair encloses for twice the denominator: the step of `rootPowBounds`. -/
theorem enclosesPow_sqrt {k h a : Nat} {b : Nat × Nat} (ha : a < 2 * h) (hb : EnclosesPow k h (a % h) b)
    (hb2 : b.2 ≤ 2 ^ (k + 2)) :
    EnclosesPow k (2 * h) a
      (natRoot 2 (2 ^ (a / h) * b.1 * 2 ^ k) (k + 2), natRoot 2 (2 ^ (a / h) * b.2 * 2 ^ k) (k + 2) + 1) := by
  obtain ⟨hlo, hhi⟩ := hb
  have hq : a / h ≤ 1 := Nat.le_of_lt_succ (Nat.div_lt_of_lt_mul (by omega))
  have hsplit : 2 ^ (a + k * (2 * h)) = (2 ^ (a / h)) ^ h * 2 ^ (a % h + k * h) * (2 ^ k) ^ h := by
    rw [← pow_mul, ← pow_mul, ← pow_add, ← pow_add]
    congr 1
    have := Nat.div_add_mod' a h
    nlinarith
  have hsize : 2 ^ (a / h) * b.2 * 2 ^ k < (2 ^ (k + 2)) ^ 2 :=
    calc 2 ^ (a / h) * b.2 * 2 ^ k ≤ 2 ^ 1 * 2 ^ (k + 2) * 2 ^ k := by gcongr; norm_num
      _ = 2 ^ (2 * k + 3) := by ring
      _ < 2 ^ (2 * k + 4) := Nat.pow_lt_pow_right one_lt_two (by omega)
      _ = (2 ^ (k + 2)) ^ 2 := by ring
  constructor
  · calc natRoot 2 (2 ^ (a / h) * b.1 * 2 ^ k) (k + 2) ^ (2 * h)
        ≤ (2 ^ (a / h) * b.1 * 2 ^ k) ^ h := by
          rw [pow_mul]
          exact Nat.pow_le_pow_left (natRoot_pow_le two_ne_zero _ _) h
      _ = (2 ^ (a / h)) ^ h * b.1 ^ h * (2 ^ k) ^ h := by rw [mul_pow, mul_pow]
      _ ≤ 2 ^ (a + k * (2 * h)) := by rw [hsplit]; gcongr
  · calc 2 ^ (a + k * (2 * h)) ≤ (2 ^ (a / h)) ^ h * b.2 ^ h * (2 ^ k) ^ h := by rw [hsplit]; gcongr
      _ = (2 ^ (a / h) * b.2 * 2 ^ k) ^ h := by rw [mul_pow, mul_pow]
      _ ≤ (natRoot 2 (2 ^ (a / h) * b.2 * 2 ^ k) (k + 2) + 1) ^ (2 * h) := by
          rw [pow_mul]
          exact Nat.pow_le_pow_left (lt_natRoot_succ_pow hsize).le h

theorem rootPowBounds_snd_le (k m j a : Nat) : (rootPowBounds k m j a).2 ≤ 2 ^ (k + 2) := by
  cases j with
  | zero => exact natRoot_succ_le _ _ _
  | succ j => exact natRoot_succ_le _ _ _

theorem rootPowBounds_encloses {k m : Nat} (hm : 0 < m) (j : Nat) {a : Nat} (ha : a < m * 2 ^ j) :
    EnclosesPow k (m * 2 ^ j) a (rootPowBounds k m j a) := by
  induction j generalizing a with
  | zero =>
    rw [pow_zero, mul_one] at ha ⊢
    exact enclosesPow_natRoot ha
  | succ j ih =>
    have hdouble : m * 2 ^ (j + 1) = 2 * (m * 2 ^ j) := by ring
    rw [hdouble] at ha ⊢
    exact enclosesPow_sqrt ha (ih (Nat.mod_lt _ (by positivity))) (rootPowBounds_snd_le k m j _)

/-- However many factors 2 are split off, the parts multiply to the number. -/
theorem splitTwos_mul (f b : Nat) : (splitTwos f b).2 * 2 ^ (splitTwos f b).1 = b := by
  induction f generalizing b with
  | zero => simp [splitTwos]
  | succ f ih =>
    unfold splitTwos
    split
    case isTrue heven =>
      have := ih (b / 2)
      rw [pow_succ, ← mul_assoc, this]
      omega
    case isFalse => simp

theorem powTwoBounds_enclose (k : Nat) {e : Rat} (h0 : 0 ≤ e) (h1 : e < 1) :
    ((powTwoBounds k e).1 : ℝ) ≤ 2 ^ k * (2 : ℝ) ^ (e : ℝ) ∧ 2 ^ k * (2 : ℝ) ^ (e : ℝ) ≤ (powTwoBounds k e).2 := by
  unfold powTwoBounds
  split
  case isTrue he => simp [he]
  case isFalse he =>
    have hsplit := splitTwos_mul (e.den.log2 + 1) e.den
    have hm : 0 < (splitTwos (e.den.log2 + 1) e.den).2 :=
      Nat.pos_of_mul_pos_right (hsplit ▸ e.den_pos)
    have hnum : (e.num.toNat : Int) = e.num := Int.toNat_of_nonneg (Rat.num_nonneg.2 h0)
    have hlt : e.num.toNat < e.den := by
      have := Rat.num_lt_denom_iff.2 h1
      omega
    have hval : (e.num.toNat : ℝ) / (e.den : ℝ) = (e : ℝ) := by
      rw [Rat.cast_def e, ← Int.cast_natCast, hnum]
    have henc := rootPowBounds_encloses (k := k) hm _ (hsplit.symm ▸ hlt)
    rw [hsplit] at henc
    rw [← hval]
    exact enclosesPow_real e.den_ne_zero henc

/-! ## Bounds of a sum -/

/-- The term that `Pow2Sum.lower` adds. -/
def Pow2Term.lower (k : Nat) (t : Pow2Term) : Rat :=
  t.coef * (if 0 ≤ t.coef then (powTwoBounds k t.exp).1 else (powTwoBounds k t.exp).2) / (2 ^ k : Nat)

/-- The term that `Pow2Sum.upper` adds. -/
def Pow2Term.upper (k : Nat) (t : Pow2Term) : Rat :=
  t.coef * (if 0 ≤ t.coef then (powTwoBounds k t.exp).2 else (powTwoBounds k t.exp).1) / (2 ^ k : Nat)

theorem Pow2Sum.lower_cons (k : Nat) (t : Pow2Term) (ts : List Pow2Term) :
    (Pow2Sum.mk (t :: ts)).lower k = (Pow2Sum.mk ts).lower k + t.lower k := by
  simp [Pow2Sum.lower, Pow2Term.lower]

theorem Pow2Sum.upper_cons (k : Nat) (t : Pow2Term) (ts : List Pow2Term) :
    (Pow2Sum.mk (t :: ts)).upper k = (Pow2Sum.mk ts).upper k + t.upper k := by
  simp [Pow2Sum.upper, Pow2Term.upper]

theorem Pow2Term.toReal_enclosed (k : Nat) {t : Pow2Term} (h0 : 0 ≤ t.exp) (h1 : t.exp < 1) :
    ((t.lower k : Rat) : ℝ) ≤ t.toReal ∧ t.toReal ≤ ((t.upper k : Rat) : ℝ) := by
  obtain ⟨hlo, hhi⟩ := powTwoBounds_enclose k h0 h1
  have hk : (0 : ℝ) < 2 ^ k := by positivity
  have hval : t.toReal = (t.coef : ℝ) * (2 ^ k * (2 : ℝ) ^ (t.exp : ℝ)) / 2 ^ k := by
    rw [Pow2Term.toReal]
    field_simp
  rw [hval, Pow2Term.lower, Pow2Term.upper]
  push_cast
  rw [div_le_div_iff_of_pos_right hk, div_le_div_iff_of_pos_right hk]
  by_cases hc : 0 ≤ t.coef
  · have hc' : (0 : ℝ) ≤ t.coef := by exact_mod_cast hc
    rw [if_pos hc, if_pos hc]
    exact ⟨mul_le_mul_of_nonneg_left hlo hc', mul_le_mul_of_nonneg_left hhi hc'⟩
  · have hc' : (t.coef : ℝ) ≤ 0 := by exact_mod_cast (not_le.1 hc).le
    rw [if_neg hc, if_neg hc]
    exact ⟨mul_le_mul_of_nonpos_left hhi hc', mul_le_mul_of_nonpos_left hlo hc'⟩

theorem Pow2Sum.toReal_enclosed (k : Nat) {x : Pow2Sum} (hx : x.canonical) :
    ((x.lower k : Rat) : ℝ) ≤ x.toReal ∧ x.toReal ≤ ((x.upper k : Rat) : ℝ) := by
  obtain ⟨ts⟩ := x
  induction ts with
  | nil => simp [Pow2Sum.lower, Pow2Sum.upper]
  | cons t ts ih =>
    obtain ⟨-, ⟨h0, h1, -⟩, hts⟩ := (Pow2Sum.canonical_cons t ts).1 hx
    obtain ⟨htl, htu⟩ := Pow2Term.toReal_enclosed k h0 h1
    obtain ⟨hl, hu⟩ := ih hts
    rw [Pow2Sum.lower_cons, Pow2Sum.upper_cons, Pow2Sum.toReal_cons]
    push_cast
    constructor <;> linarith

/-- Between two rational numbers with one floor every real number has that floor. -/
theorem floor_eq_of_rat_bounds {lo hi : Rat} {x : ℝ} (hlo : (lo : ℝ) ≤ x) (hhi : x ≤ (hi : ℝ))
    (h : lo.floor = hi.floor) : lo.floor = ⌊x⌋ := by
  have hfloor (q : Rat) : ⌊(q : ℝ)⌋ = q.floor := Rat.floor_cast q
  refine le_antisymm ?_ ?_
  · rw [← hfloor]
    exact Int.floor_mono hlo
  · rw [h, ← hfloor]
    exact Int.floor_mono hhi

/-- Settles O35: the bounds enclose term by term, by the sign of the coefficient. -/
theorem rationalBoundsEncloseTheNumber : Obligations.RationalBoundsEncloseTheNumber := by
  intro x k hx
  obtain ⟨hlo, hhi⟩ := Pow2Sum.toReal_enclosed k hx
  exact ⟨hlo, hhi, floor_eq_of_rat_bounds hlo hhi⟩

end Sys2Proof
end

section
/-! PROOFS. What an operation can do, said once: the state it answers, operation by operation; what it does to a channel;
what moves a slot can make. -/

namespace Sys2Proof.Machine

/-! ## Operations -/

/-- What a control change of controller `k` with the value `value` does to its channel (rules R109 to R118). -/
inductive ControlWrite (fp : Fp) (value : BitVec 7) : BitVec 7 → (Channel → Channel) → Prop
  | range : ControlWrite fp value 6 fun x => { x with pitchBendRange := value.setWidth 32 }
  | volume : ControlWrite fp value 7 fun x => { x with volume := ratioOf fp value }
  | pan : ControlWrite fp value 10 fun x => { x with pan := ratioOf fp value }
  | modState {k : BitVec 7} (hk : k ∈ ([1, 21, 22, 24, 26, 29, 30] : List (BitVec 7))) (f : ModState → ModState) :
      ControlWrite fp value k (onModState f)

/-- What a generator's step does to its slot, whatever the generator (rules R146 to R153): it writes oscillator fields, or
ends the voice. -/
inductive GeneratorMove (v : Slot) : Slot → Prop
  | run (pos : Pow2Sum) (phase : Rat) (lfsr : BitVec 16) (timer : Rat) (out : Byte) :
      GeneratorMove v
        { v with samplePos := pos, squarePhase := phase, lfsr := lfsr, noiseTimer := timer, noiseOutput := out }
  | stop (pos : Pow2Sum) : GeneratorMove v (goOff { v with samplePos := pos })

/-- The states an operation can answer. A dropped command is `drop`, whatever the reason. -/
inductive Effect (s : State) : Instr → State → Prop
  | drop (i : Instr) : Effect s i s
  | reset : Effect s .reset (resetEngine s)
  | setRate {w : Word32} (hw : w ≠ 0) : Effect s (.setRate w) (s.withRate (w.toNat : Rat))
  | noteOn {rate : Rat} {ch : Byte} {c : Fin 16} {ref : Word32} (r : Bool) (note vel : BitVec 7)
      (hrate : s.sampleRate = some rate) (hch : ch.toNat = c.val) (hk : kindSounds (readVoice s.platform ref).kind = true)
      (hwf : (readVoice s.platform ref).wellFormed = true) :
      Effect s (.noteOn r ch note vel ref) (startNote rate r c ch note vel ref (readVoice s.platform ref) s)
  | noteOff (ch : Byte) (note : BitVec 7) : Effect s (.noteOff ch note) (s.mapSlots (releaseNote s.platform ch note))
  | allOff {i : Instr} {ch : Byte} (hi : i = .allOff ch ∨ ∃ v, i = .ccAlloff ch v) : Effect s i (allNotesOff ch s)
  | control {i : Instr} {ch : Byte} {c : Fin 16} {k value : BitVec 7} {f : Channel → Channel}
      (hi : encode i = .command (ccWord k ch value)) (hf : ControlWrite s.platform.params.fp value k f)
      (hch : ch.toNat = c.val) : Effect s i (s.setChannel c (f s.ch[c.val]))
  | pbend {rate : Rat} {ch : Byte} {c : Fin 16} (b : BitVec 16) (hrate : s.sampleRate = some rate)
      (hch : ch.toNat = c.val) : Effect s (.pbend ch b) (bendChannel rate c b s)
  | render {rate : Rat} (n : Word32) (hrate : s.sampleRate = some rate) :
      Effect s (.render n) (renderState rate n.toNat s)
  | decode {i : Instr} {looped : Bool} (hi : i = .decodeRaw looped ∨ i = .decodeDpcm looped) (r : Option Sample) :
      Effect s i (s.withDecResult r)
  | generator {i : Instr} {b : Byte} {gen : Slot → Slot × Pow2Sum} (hi : encode i = .kind b)
      (hgen : ∀ v, GeneratorMove v (gen v).1) : Effect s i (stepGenerator gen s)

theorem oscSquare_move (fp : Fp) (duty : Byte) (v : Slot) : GeneratorMove v (oscSquare fp duty v).1 :=
  .run v.samplePos _ v.lfsr v.noiseTimer v.noiseOutput

theorem oscNoise_move (fp : Fp) (polarity : Bool) (v : Slot) : GeneratorMove v (oscNoise fp polarity v).1 := by
  rw [oscNoise_fst]
  exact .run v.samplePos v.squarePhase _ _ _

theorem oscProgWave_move (fp : Fp) (smp : Option Sample) (v : Slot) : GeneratorMove v (oscProgWave fp smp v).1 := by
  rw [oscProgWave_fst]
  exact .run _ v.squarePhase v.lfsr v.noiseTimer v.noiseOutput

theorem oscDirectSound_move (p : Params) (smp : Option Sample) (v : Slot) :
    GeneratorMove v (oscDirectSound p smp v).1 := by
  obtain h | ⟨-, h⟩ := oscDirectSound_fst p smp v
  · rw [h]
    exact .run _ v.squarePhase v.lfsr v.noiseTimer v.noiseOutput
  · rw [h]
    exact .stop (oscDirectSound p smp v).1.samplePos

/-- The step of any kind's generator (rule R145). -/
theorem osc_move (pf : Platform) (v : Slot) : GeneratorMove v (osc pf v).1 := by
  unfold osc
  dsimp only
  cases (readVoice pf v.voiceRef).kind with
  | directSound => exact oscDirectSound_move _ _ v
  | square1 | square2 => exact oscSquare_move _ _ v
  | noise => exact oscNoise_move _ _ v
  | progWave => exact oscProgWave_move _ _ v
  | empty | keysplit | keysplitAll => exact .run v.samplePos v.squarePhase v.lfsr v.noiseTimer v.noiseOutput

theorem effect_of_drop {i : Instr} {s t : State} (h : Machine.drop s = .next t) : Effect s i t := by
  rw [drop_next h]
  exact .drop i

/-- The shape shared by the control changes that write a channel. -/
theorem effect_of_control {i : Instr} {ch : Byte} {k value : BitVec 7} {f : Channel → Channel} {s t : State}
    (h : controlChange ch f s = .next t) (hi : encode i = .command (ccWord k ch value))
    (hf : ControlWrite s.platform.params.fp value k f) : Effect s i t := by
  obtain ⟨-, rfl⟩ | ⟨c, hc, rfl⟩ := controlChange_next h
  · exact .drop i
  · exact .control hi hf hc

/-- A NOTE_ON that answers a next state was dropped, or starts a note (rules R161, R171). -/
theorem execNoteOn_next {r : Bool} {ch : Byte} {note vel : BitVec 7} {ref : Word32} {s t : State}
    (h : execNoteOn r ch note vel ref s = .next t) :
    ((channelOf ch = none ∨ kindSounds (readVoice s.platform ref).kind = false) ∧ t = s) ∨
      ∃ rate c, s.sampleRate = some rate ∧ ch.toNat = c.val ∧ kindSounds (readVoice s.platform ref).kind = true ∧
        (readVoice s.platform ref).wellFormed = true ∧
        t = startNote rate r c ch note vel ref (readVoice s.platform ref) s := by
  unfold execNoteOn at h
  split at h
  · cases h
  case h_2 rate hrate =>
    split at h
    case h_1 hc => exact .inl ⟨.inl hc, drop_next h⟩
    case h_2 c hc =>
      dsimp only at h
      split at h
      case isTrue hk =>
        split at h
        case isTrue hwf =>
          cases h
          exact .inr ⟨rate, c, hrate, channelOf_val hc, hk, hwf, rfl⟩
        case isFalse => cases h
      case isFalse hk => exact .inl ⟨.inr (by simpa using hk), drop_next h⟩

theorem execSetRate_effect {w : Word32} {s t : State} (h : execSetRate w s = .next t) : Effect s (.setRate w) t := by
  unfold execSetRate at h
  split at h
  · exact effect_of_drop h
  case isFalse hw =>
    cases h
    exact .setRate hw

theorem execNoteOn_effect {r : Bool} {ch : Byte} {note vel : BitVec 7} {ref : Word32} {s t : State}
    (h : execNoteOn r ch note vel ref s = .next t) : Effect s (.noteOn r ch note vel ref) t := by
  obtain ⟨-, rfl⟩ | ⟨rate, c, hrate, hch, hk, hwf, rfl⟩ := execNoteOn_next h
  · exact .drop _
  · exact .noteOn r note vel hrate hch hk hwf

theorem execCcAlloff_effect {ch : Byte} {value : BitVec 7} {s t : State} (h : execCcAlloff ch value s = .next t) :
    Effect s (.ccAlloff ch value) t := by
  unfold execCcAlloff at h
  split at h
  · exact effect_of_drop h
  · cases h
    exact .allOff (.inr ⟨value, rfl⟩)

/-- A PBEND that answers a next state was dropped, or bends a channel (rule R106). -/
theorem execPbend_next {ch : Byte} {b : BitVec 16} {s t : State} (h : execPbend ch b s = .next t) :
    t = s ∨ ∃ rate c, s.sampleRate = some rate ∧ ch.toNat = c.val ∧ t = bendChannel rate c b s := by
  unfold execPbend at h
  split at h
  · cases h
  case h_2 rate hrate =>
    split at h
    · exact .inl (drop_next h)
    case h_2 c hc =>
      cases h
      exact .inr ⟨rate, c, hrate, channelOf_val hc, rfl⟩

theorem execPbend_effect {ch : Byte} {b : BitVec 16} {s t : State} (h : execPbend ch b s = .next t) :
    Effect s (.pbend ch b) t := by
  obtain rfl | ⟨rate, c, hrate, hch, rfl⟩ := execPbend_next h
  · exact .drop _
  · exact .pbend b hrate hch

theorem execRender_next {n : Word32} {s t : State} (h : execRender n s = .next t) :
    ∃ rate, s.sampleRate = some rate ∧ t = renderState rate n.toNat s := by
  unfold execRender at h
  split at h
  · cases h
  case h_2 rate hrate =>
    cases h
    exact ⟨rate, hrate, rfl⟩

theorem execRender_effect {n : Word32} {s t : State} (h : execRender n s = .next t) : Effect s (.render n) t := by
  obtain ⟨rate, hrate, rfl⟩ := execRender_next h
  exact .render n hrate

/-- Every next state an operation answers is one of `Effect`. -/
theorem exec_effect {i : Instr} {s t : State} (h : exec i s = .next t) : Effect s i t := by
  cases i with
  | reset =>
    cases h
    exact .reset
  | setRate w => exact execSetRate_effect h
  | noteOn r ch note vel ref => exact execNoteOn_effect h
  | noteOff ch note =>
    cases h
    exact .noteOff ch note
  | allOff ch =>
    cases h
    exact .allOff (.inl rfl)
  | ccBendr ch value =>
    unfold exec at h
    exact effect_of_control h rfl .range
  | ccVol ch value =>
    unfold exec at h
    exact effect_of_control h rfl .volume
  | ccPan ch value =>
    unfold exec at h
    exact effect_of_control h rfl .pan
  | ccMod ch value | ccLfos ch value | ccModt ch value | ccTune ch value | ccLfodl ch value | ccXcmd ch value
  | ccXcmdtype ch value => exact effect_of_control h rfl (.modState (by decide) _)
  | ccAlloff ch value => exact execCcAlloff_effect h
  | pbend ch b => exact execPbend_effect h
  | render n => exact execRender_effect h
  | decodeRaw looped =>
    cases h
    exact .decode (.inl rfl) _
  | decodeDpcm looped =>
    cases h
    exact .decode (.inr rfl) _
  | voiceDirectsound =>
    cases h
    exact .generator rfl (oscDirectSound_move _ _)
  | voiceSquare1 | voiceSquare2 =>
    cases h
    exact .generator rfl (oscSquare_move _ _)
  | voiceProgwave =>
    cases h
    exact .generator rfl (oscProgWave_move _ _)
  | voiceNoise =>
    cases h
    exact .generator rfl (oscNoise_move _ _)
  | ccOther ch controller value => exact effect_of_drop h
  | voiceEmpty | voiceKeysplit | voiceKeysplitall => exact effect_of_drop h

theorem resetEngine_v (s : State) (k : Fin 24) : (resetEngine s).v[k.val] = goOff s.v[k.val] := by simp [resetEngine]

theorem resetEngine_ch (s : State) (c : Fin 16) :
    (resetEngine s).ch[c.val] = .resetValue s.platform.params.modstateReset := by
  simp [resetEngine]

/-- RENDER writes the accumulator, channels, slots and the audio port only (rules R180, R186). -/
theorem renderState_frame (rate : Rat) (n : Nat) (s : State) :
    ∃ acc cs vs frames,
      renderState rate n s = { s with frameAcc := acc, ch := cs, v := vs, audio := s.audio ++ frames } := by
  have hkeep : ∃ acc cs vs, (renderFrames rate n s).1 = { s with frameAcc := acc, ch := cs, v := vs } := by
    refine renderFrames_keeps (P := fun u => ∃ acc cs vs, u = { s with frameAcc := acc, ch := cs, v := vs }) ?_ n s
      ⟨_, _, _, rfl⟩
    rintro _ ⟨acc, cs, vs, rfl⟩
    exact ⟨_, _, _, renderFrame_frame rate _⟩
  obtain ⟨acc, cs, vs, h⟩ := hkeep
  exact ⟨acc, cs, vs, _, by rw [renderState, h]; rfl⟩

/-- A generator asked for by itself writes slots and its result only. -/
theorem stepGenerator_frame (gen : Slot → Slot × Pow2Sum) (s : State) :
    ∃ vs out, stepGenerator gen s = { s with v := vs, genOut := out } := by
  cases h : (s.v[s.genSlot.val]).active with
  | false => exact ⟨s.v, s.genOut, stepGenerator_inactive h⟩
  | true => exact ⟨_, _, stepGenerator_active h⟩

/-! ## Channels -/

/-- What an operation can make of channel `c`. -/
inductive ChannelMove (s : State) (i : Instr) (c : Fin 16) : Channel → Prop
  | keep : ChannelMove s i c s.ch[c.val]
  | reset (hi : i = .reset) : ChannelMove s i c (.resetValue s.platform.params.modstateReset)
  | control {ch : Byte} {k value : BitVec 7} {f : Channel → Channel} (hi : encode i = .command (ccWord k ch value))
      (hf : ControlWrite s.platform.params.fp value k f) (hch : ch.toNat = c.val) : ChannelMove s i c (f s.ch[c.val])
  | bend {ch : Byte} {b : BitVec 16} (hi : i = .pbend ch b) (hch : ch.toNat = c.val) (x : Rat) :
      ChannelMove s i c { s.ch[c.val] with pitchBendSemitones := x }
  | lfo {n : Word32} (hi : i = .render n) (m : ModState) : ChannelMove s i c { s.ch[c.val] with modState := m }

/-- RENDER writes of a channel its ModState only (rules R185, R205). -/
theorem renderState_ch (rate : Rat) (n : Nat) (s : State) (c : Fin 16) :
    ∃ m, (renderState rate n s).ch[c.val] = { s.ch[c.val] with modState := m } := by
  refine renderFrames_keeps (P := fun u => ∃ m, u.ch[c.val] = { s.ch[c.val] with modState := m }) ?_ n s ⟨_, rfl⟩
  rintro u ⟨m, hu⟩
  rw [renderFrame_frame]
  unfold sampleTick
  dsimp only
  split
  · exact ⟨_, by rw [frameTick_ch, lfoChannel, State.withFrameAcc_ch, hu]⟩
  · exact ⟨m, hu⟩

theorem exec_channel {i : Instr} {s t : State} (h : exec i s = .next t) (c : Fin 16) : ChannelMove s i c t.ch[c.val] := by
  cases exec_effect h with
  | drop | setRate | noteOn | noteOff | allOff | decode => exact .keep
  | reset =>
    rw [resetEngine_ch]
    exact .reset rfl
  | control hi hf hch =>
    rw [setChannel_getElem]
    split
    case isTrue heq =>
      subst heq
      exact .control hi hf hch
    case isFalse => exact .keep
  | pbend b hrate hch =>
    rw [bendChannel, State.mapSlots_ch, setChannel_getElem]
    split
    case isTrue heq =>
      subst heq
      exact .bend rfl hch _
    case isFalse => exact .keep
  | render n hrate =>
    obtain ⟨m, hm⟩ := renderState_ch _ n.toNat s c
    rw [hm]
    exact .lfo rfl m
  | @generator _ b gen hi hgen =>
    obtain ⟨vs, out, hs⟩ := stepGenerator_frame gen s
    rw [hs]
    exact .keep

end Sys2Proof.Machine
end

section
/-! PROOFS. The envelopes and the start of a voice: what an envelope step can do to a slot, and what is known of the slot
that `startVoice` makes. -/

namespace Sys2Proof.Machine

/-! ## Envelope steps -/

/-- The volume `vol` is in the range of the slot's class (rule R33 (c)). -/
def Slot.volumeInRange (v : Slot) (vol : Int) : Prop := 0 ≤ vol ∧ vol ≤ v.envMax

/-- The goals of a CGB slot (rules R29, R167). -/
def Slot.goalsInRange (v : Slot) : Prop :=
  v.isCgbVoice = true → v.envelopeGoal = 15 ∧ 0 ≤ v.sustainGoal ∧ v.sustainGoal ≤ 15

theorem envelopeInRange_iff (v : Slot) :
    v.envelopeInRange ↔ (v.active = true → v.goalsInRange ∧ v.volumeInRange v.envelopeVolume) := by
  cases hc : v.isCgbVoice with
  | false => simp [Slot.envelopeInRange, Slot.goalsInRange, Slot.volumeInRange, Slot.envMax, hc, dsEnvMax]
  | true =>
    simp [Slot.envelopeInRange, Slot.goalsInRange, Slot.volumeInRange, Slot.envMax, hc, cgbEnvMax]
    tauto

/-- What an envelope step does (rules R210 to R230): it writes envelope fields with the volume in the range of the class,
or it ends the voice, which Attack does not; a slot that is Off stays as it is. -/
inductive EnvelopeMove (v : Slot) : Slot → Prop
  | hold {p : Phase} {vol count len : Int} (hv : v.phase ≠ .off) (hp : p ≠ .off)
      (hvol : v.goalsInRange → v.volumeInRange v.envelopeVolume → v.volumeInRange vol) :
      EnvelopeMove v { v with phase := p, envelopeVolume := vol, envelopeCounter := count, pseudoEchoLen := len }
  | stop {vol count len : Int} (hv : v.phase ≠ .attack) :
      EnvelopeMove v (goOff { v with envelopeVolume := vol, envelopeCounter := count, pseudoEchoLen := len })
  | off (hv : v.phase = .off) : EnvelopeMove v v

theorem volumeInRange_cgb {v : Slot} (hc : v.isCgbVoice = true) (vol : Int) :
    v.volumeInRange vol ↔ 0 ≤ vol ∧ vol ≤ 15 := by
  simp [Slot.volumeInRange, Slot.envMax, hc, cgbEnvMax]

theorem volumeInRange_ds {v : Slot} (hc : v.isCgbVoice = false) (vol : Int) :
    v.volumeInRange vol ↔ 0 ≤ vol ∧ vol ≤ 255 := by
  simp [Slot.volumeInRange, Slot.envMax, hc, dsEnvMax]

/-- A flooring shift is a Euclidean quotient. -/
theorem sar_eq (x : Int) (n : Nat) : sar x n = x / 2 ^ n := Int.fdiv_eq_ediv_of_nonneg x (by positivity)

theorem cgbEchoLevel_range {v : Slot} (hg : v.envelopeGoal = 15) : 0 ≤ cgbEchoLevel v ∧ cgbEchoLevel v ≤ 15 := by
  have := v.pseudoEchoVol.isLt
  rw [cgbEchoLevel, sar_eq, hg]
  omega

/-- A volume scaled by a byte / 256 stays in 0..255. -/
theorem sar_scale_range {x : Int} (b : Byte) (h0 : 0 ≤ x) (h1 : x ≤ 255) :
    0 ≤ sar (x * (b.toNat : Int)) 8 ∧ sar (x * (b.toNat : Int)) 8 ≤ 255 := by
  have hb : (b.toNat : Int) ≤ 255 := by have := b.isLt; omega
  have hlo : 0 ≤ x * (b.toNat : Int) := by positivity
  have hhi : x * (b.toNat : Int) ≤ 255 * 255 := mul_le_mul h1 hb (by positivity) (by norm_num)
  rw [sar_eq]
  omega

section Cgb

variable {v : Slot} (hc : v.isCgbVoice = true)
include hc

theorem cgbEnterDecay_move (vo : Voice) (hp : v.phase = .attack) : EnvelopeMove v (cgbEnterDecay vo v) :=
  .hold (by simp [hp]) (by simp) fun hg _ => by simp [volumeInRange_cgb hc, hg hc]

theorem cgbAttack_move (vo : Voice) (hp : v.phase = .attack) : EnvelopeMove v (cgbAttack vo v) := by
  have hv : v.phase ≠ .off := by simp [hp]
  unfold cgbAttack
  split
  · exact cgbEnterDecay_move hc vo hp
  · split
    · split
      · exact cgbEnterDecay_move hc vo hp
      case isFalse hlt =>
        refine .hold hv hv fun hg hvol => ?_
        obtain ⟨hgoal, -⟩ := hg hc
        rw [volumeInRange_cgb hc] at hvol ⊢
        omega
    · exact .hold hv hv fun _ hvol => hvol

/-- Leaving Decay, whatever the counter and the volume are on the way (rule R213). -/
theorem cgbLeaveDecay_move (vo : Voice) (vol count : Int) (hp : v.phase = .decay) :
    EnvelopeMove v (cgbLeaveDecay vo { v with envelopeCounter := count, envelopeVolume := vol }) := by
  unfold cgbLeaveDecay
  split
  · exact .stop (by simp [hp])
  · refine .hold (by simp [hp]) (by simp) fun hg _ => ?_
    obtain ⟨-, hgoal⟩ := hg hc
    exact (volumeInRange_cgb hc _).2 hgoal

theorem cgbDecay_move (vo : Voice) (hp : v.phase = .decay) : EnvelopeMove v (cgbDecay vo v) := by
  have hv : v.phase ≠ .off := by simp [hp]
  unfold cgbDecay
  split
  · exact cgbLeaveDecay_move hc vo v.envelopeVolume v.envelopeCounter hp
  · split
    · split
      · exact cgbLeaveDecay_move hc vo _ _ hp
      case isFalse hlt =>
        refine .hold hv hv fun hg hvol => ?_
        obtain ⟨-, hgoal⟩ := hg hc
        rw [volumeInRange_cgb hc] at hvol ⊢
        omega
    · exact .hold hv hv fun _ hvol => hvol

theorem cgbSustain_move (hp : v.phase = .sustain) : EnvelopeMove v (cgbSustain v) := by
  have hv : v.phase ≠ .off := by simp [hp]
  refine .hold hv hv fun hg _ => ?_
  obtain ⟨-, hgoal⟩ := hg hc
  exact (volumeInRange_cgb hc _).2 hgoal

/-- The end of Release, whatever the counter is on the way (rule R215). -/
theorem cgbEndRelease_move (count : Int) (hp : v.phase = .release) :
    EnvelopeMove v (cgbEndRelease { v with envelopeCounter := count }) := by
  unfold cgbEndRelease
  split
  · refine .hold (by simp [hp]) (by simp) fun hg _ => ?_
    exact (volumeInRange_cgb hc _).2 (cgbEchoLevel_range (hg hc).1)
  · exact .stop (by simp [hp])

theorem cgbRelease_move (vo : Voice) (hp : v.phase = .release) : EnvelopeMove v (cgbRelease vo v) := by
  have hv : v.phase ≠ .off := by simp [hp]
  unfold cgbRelease
  split
  · exact cgbEndRelease_move hc v.envelopeCounter hp
  · split
    · split
      · exact cgbEndRelease_move hc _ hp
      case isFalse hlt =>
        refine .hold hv hv fun _ hvol => ?_
        rw [volumeInRange_cgb hc] at hvol ⊢
        omega
    · exact .hold hv hv fun _ hvol => hvol

end Cgb

theorem echoStep_move {v : Slot} (hp : v.phase = .echo) : EnvelopeMove v (echoStep v) := by
  have hv : v.phase ≠ .off := by simp [hp]
  obtain ⟨-, h⟩ | ⟨-, h⟩ := echoStep_cases v
  · rw [h]
    exact .stop (by simp [hp])
  · rw [h]
    exact .hold hv hv fun _ hvol => hvol

section DirectSound

variable {v : Slot} (hc : v.isCgbVoice = false)
include hc

theorem dsAttack_move (vo : Voice) (hp : v.phase = .attack) : EnvelopeMove v (dsAttack vo v) := by
  have hv : v.phase ≠ .off := by simp [hp]
  unfold dsAttack
  split
  · exact .hold hv (by simp) fun _ _ => by simp [volumeInRange_ds hc]
  case isFalse hlt =>
    refine .hold hv hv fun _ hvol => ?_
    rw [volumeInRange_ds hc] at hvol ⊢
    omega

theorem volumeInRange_byte (b : Byte) : v.volumeInRange (b.toNat : Int) := by
  have := b.isLt
  rw [volumeInRange_ds hc]
  omega

theorem volumeInRange_scale (b : Byte) (h : v.volumeInRange v.envelopeVolume) :
    v.volumeInRange (sar (v.envelopeVolume * (b.toNat : Int)) 8) := by
  rw [volumeInRange_ds hc] at h ⊢
  exact sar_scale_range b h.1 h.2

theorem dsDecay_move (vo : Voice) (hp : v.phase = .decay) : EnvelopeMove v (dsDecay vo v) := by
  have hv : v.phase ≠ .off := by simp [hp]
  unfold dsDecay
  dsimp only
  split
  · split
    · exact .stop (by simp [hp])
    · exact .hold hv (by simp) fun _ _ => volumeInRange_byte hc vo.sustain
  · exact .hold hv hv fun _ => volumeInRange_scale hc vo.decay

theorem dsRelease_move (vo : Voice) (hp : v.phase = .release) : EnvelopeMove v (dsRelease vo v) := by
  have hv : v.phase ≠ .off := by simp [hp]
  unfold dsRelease
  dsimp only
  split
  · split
    · exact .stop (by simp [hp])
    · exact .hold hv (by simp) fun _ _ => volumeInRange_byte hc v.pseudoEchoVol
  · exact .hold hv hv fun _ => volumeInRange_scale hc vo.release

end DirectSound

/-- Every arm of the envelope step (rule R210). -/
theorem envelopeStep_move (vo : Voice) (v : Slot) : EnvelopeMove v (envelopeStep vo v) := by
  unfold envelopeStep
  split
  case isTrue hc =>
    split
    case h_1 hp => exact cgbAttack_move hc vo hp
    case h_2 hp => exact cgbDecay_move hc vo hp
    case h_3 hp => exact cgbSustain_move hc hp
    case h_4 hp => exact cgbRelease_move hc vo hp
    case h_5 hp => exact echoStep_move hp
    case h_6 hp => exact .off hp
  case isFalse hc =>
    rw [Bool.not_eq_true] at hc
    split
    case h_1 hp => exact dsAttack_move hc vo hp
    case h_2 hp => exact dsDecay_move hc vo hp
    case h_3 hp =>
      have hv : v.phase ≠ .off := by simp [hp]
      exact .hold hv hv fun _ hvol => hvol
    case h_4 hp => exact dsRelease_move hc vo hp
    case h_5 hp => exact echoStep_move hp
    case h_6 hp => exact .off hp

/-! ## The start of a voice -/

theorem startEnvelope_frame (vo : Voice) (v : Slot) :
    ∃ p vol goal sus count, p ≠ .off ∧
      startEnvelope vo v =
        { v with
          phase := p, envelopeVolume := vol, envelopeGoal := goal, sustainGoal := sus, envelopeCounter := count } := by
  unfold startEnvelope
  split
  · split
    · exact ⟨_, _, _, _, _, by simp, rfl⟩
    · exact ⟨_, _, _, _, _, by simp, rfl⟩
  · exact ⟨_, _, _, _, _, by simp, rfl⟩

/-- The immediate step is a step of Attack, so it does not end the voice (rule R170). -/
theorem immediateStep_frame (vo : Voice) {v : Slot} (hv : v.phase ≠ .off) :
    ∃ p vol count len, p ≠ .off ∧ (v.goalsInRange → v.volumeInRange v.envelopeVolume → v.volumeInRange vol) ∧
      immediateStep vo v =
        { v with phase := p, envelopeVolume := vol, envelopeCounter := count, pseudoEchoLen := len } := by
  unfold immediateStep
  split
  case isTrue hp =>
    generalize hw : envelopeStep vo v = w
    cases hw ▸ envelopeStep_move vo v with
    | hold _ hp' hvol => exact ⟨_, _, _, _, hp', hvol, rfl⟩
    | stop hne => exact absurd hp hne
    | off hoff => exact absurd hoff hv
  case isFalse => exact ⟨_, _, _, _, hv, fun _ h => h, rfl⟩

theorem wellFormed_iff (vo : Voice) :
    vo.wellFormed = true ↔
      (kindIsCgb vo.kind = true → vo.sustain.toNat ≤ 15) ∧ vo.pan.toNat ≤ 127 ∧ vo.baseMidiKey.toNat ≤ 127 := by
  cases h : kindIsCgb vo.kind <;> simp [Voice.wellFormed, h, and_assoc]

/-- The sustain goal of a record in the ranges of rule R59 is in 0..15 (rule R167). -/
theorem startEnvelope_inRange {vo : Voice} {v : Slot} (hwf : vo.wellFormed = true)
    (hclass : v.isCgbVoice = kindIsCgb vo.kind) :
    (startEnvelope vo v).goalsInRange ∧ (startEnvelope vo v).volumeInRange (startEnvelope vo v).envelopeVolume := by
  obtain ⟨hsustain, -⟩ := (wellFormed_iff vo).1 hwf
  unfold startEnvelope
  split
  case isTrue hc =>
    have hgoal : 0 ≤ sar (15 * (vo.sustain.toNat : Int) + 15) 4 ∧ sar (15 * (vo.sustain.toNat : Int) + 15) 4 ≤ 15 := by
      have := hsustain (hclass ▸ hc)
      rw [sar_eq]
      omega
    split
    · exact ⟨fun _ => ⟨rfl, hgoal⟩, (volumeInRange_cgb hc _).2 (by norm_num)⟩
    · exact ⟨fun _ => ⟨rfl, hgoal⟩, (volumeInRange_cgb hc _).2 (by norm_num)⟩
  case isFalse hc =>
    exact ⟨fun h => absurd h hc, (volumeInRange_ds (Bool.not_eq_true _ ▸ hc) _).2 (by norm_num)⟩

section Start

variable (pf : Platform) (rate : Rat) (r : Bool) (c : Fin 16) (note vel : BitVec 7) (ref : Word32) (order : BitVec 64)
  (x : Channel) (vo : Voice) (v : Slot)

/-- The slot of a new note before it is tuned: steps 4, 5 and 7a (rules R165 to R168). -/
def preparedSlot : Slot :=
  startOscillator pf.params vo
    (startEnvelope vo (startPan pf.params.fp x vo (startIdentity r c note vel ref order x vo v)))

/-- The slot of a new note before its immediate step: steps 4 to 7 (rules R165 to R169). -/
def tunedSlot : Slot := startTuning pf rate vo (preparedSlot pf r c note vel ref order x vo v)

theorem startVoice_eq :
    startVoice pf rate r c note vel ref order x vo v =
      immediateStep vo (tunedSlot pf rate r c note vel ref order x vo v) := rfl

/-- What is fixed of the slot of a new note, whatever its envelope and oscillator do (rules R165, R166). -/
structure StartedSlot (w : Slot) : Prop where
  active : w.active = true
  phase : w.phase ≠ .off
  channel : w.channel = c
  note : w.note = note
  voiceRef : w.voiceRef = ref
  isRhythm : w.isRhythm = r
  isCgbVoice : w.isCgbVoice = kindIsCgb vo.kind
  pitchBend : w.pitchBend = x.pitchBendSemitones
  pan : w.pan = pf.params.fp.divQ (pf.params.fp.addQ (voicePan pf.params.fp vo) x.pan) 2

theorem preparedSlot_started : StartedSlot pf r c note ref x vo (preparedSlot pf r c note vel ref order x vo v) := by
  obtain ⟨p, vol, goal, sus, count, hp, he⟩ :=
    startEnvelope_frame vo (startPan pf.params.fp x vo (startIdentity r c note vel ref order x vo v))
  rw [preparedSlot, he]
  exact ⟨rfl, hp, rfl, rfl, rfl, rfl, rfl, rfl, rfl⟩

theorem tunedSlot_started : StartedSlot pf r c note ref x vo (tunedSlot pf rate r c note vel ref order x vo v) := by
  obtain ⟨hactive, hphase, hchannel, hnote, href, hrhythm, hcgb, hbend, hpan⟩ :=
    preparedSlot_started pf r c note vel ref order x vo v
  rw [tunedSlot, startTuning, configure_frame]
  exact ⟨hactive, hphase, hchannel, hnote, href, hrhythm, hcgb, hbend, hpan⟩

theorem startVoice_started :
    StartedSlot pf r c note ref x vo (startVoice pf rate r c note vel ref order x vo v) := by
  obtain ⟨hactive, hphase, hchannel, hnote, href, hrhythm, hcgb, hbend, hpan⟩ :=
    tunedSlot_started pf rate r c note vel ref order x vo v
  obtain ⟨p, vol, count, len, hp, -, he⟩ := immediateStep_frame vo hphase
  rw [startVoice_eq, he]
  exact ⟨hactive, hp, hchannel, hnote, href, hrhythm, hcgb, hbend, hpan⟩

theorem tunedSlot_inRange {vo : Voice} (hwf : vo.wellFormed = true) :
    (tunedSlot pf rate r c note vel ref order x vo v).goalsInRange ∧
      (tunedSlot pf rate r c note vel ref order x vo v).volumeInRange
        (tunedSlot pf rate r c note vel ref order x vo v).envelopeVolume := by
  rw [tunedSlot, startTuning, configure_frame]
  exact startEnvelope_inRange (v := startPan pf.params.fp x vo (startIdentity r c note vel ref order x vo v)) hwf rfl

theorem startVoice_envelopeInRange {vo : Voice} (hwf : vo.wellFormed = true) :
    (startVoice pf rate r c note vel ref order x vo v).envelopeInRange := by
  obtain ⟨hgoals, hvolume⟩ := tunedSlot_inRange pf rate r c note vel ref order x v hwf
  obtain ⟨p, vol, count, len, -, hvol, he⟩ :=
    immediateStep_frame vo (tunedSlot_started pf rate r c note vel ref order x vo v).phase
  rw [envelopeInRange_iff, startVoice_eq, he]
  exact fun _ => ⟨hgoals, hvol hgoals hvolume⟩

theorem configure_noise {pf : Platform} {v : Slot} (hk : (readVoice pf v.voiceRef).kind = .noise) (rate : Rat) (key : Int)
    (total : Rat) :
    configure pf rate key total v = { v with noiseInterval := noiseIntervalOf pf.params rate key total } := by
  simp only [configure, hk]

theorem startTuning_noise {pf : Platform} {v : Slot} (hk : (readVoice pf v.voiceRef).kind = .noise) (rate : Rat)
    (vo : Voice) :
    (startTuning pf rate vo v).noiseInterval =
      noiseIntervalOf pf.params rate (if v.isRhythm then (vo.baseMidiKey.toNat : Int) else (v.note.toNat : Int)) 0 := by
  have hset :
      (readVoice pf { v with sampleStep := .zero, squarePhaseInc := 0, noiseInterval := 0 }.voiceRef).kind = .noise := hk
  rw [startTuning, configure_noise hset]

/-- A new noise voice has the interval of its tuning key (rules R169, R246). -/
theorem startVoice_noiseInterval {vo : Voice} (hvo : vo = readVoice pf ref) (hk : vo.kind = .noise) :
    (startVoice pf rate r c note vel ref order x vo v).noiseInterval =
      noiseIntervalOf pf.params rate (if r then (vo.baseMidiKey.toNat : Int) else (note.toNat : Int)) 0 := by
  have hprep := preparedSlot_started pf r c note vel ref order x vo v
  have hkind : (readVoice pf (preparedSlot pf r c note vel ref order x vo v).voiceRef).kind = .noise := by
    rw [hprep.voiceRef, ← hvo, hk]
  have htuned := startTuning_noise hkind rate vo
  rw [hprep.isRhythm, hprep.note] at htuned
  obtain ⟨p, vol, count, len, -, -, he⟩ :=
    immediateStep_frame vo (tunedSlot_started pf rate r c note vel ref order x vo v).phase
  rw [startVoice_eq, he]
  exact htuned

end Start

end Sys2Proof.Machine
end

section
/-! PROOFS. What an operation can do to a slot, said once as a sequence of moves, and the invariants of the pool that hold
because every move keeps them (rules R33, R34). -/

namespace Sys2Proof.Machine

/-! ## Moves of a slot -/

/-- The slot `v` becomes the voice of the NOTE_ON `i` (rule R171). -/
inductive VoiceStart (s : State) (i : Instr) (v : Slot) : Slot → Prop
  | mk {rate : Rat} {r : Bool} {ch : Byte} {c : Fin 16} {note vel : BitVec 7} {ref : Word32}
      (hi : i = .noteOn r ch note vel ref) (hrate : s.sampleRate = some rate) (hch : ch.toNat = c.val)
      (hk : kindSounds (readVoice s.platform ref).kind = true) (hwf : (readVoice s.platform ref).wellFormed = true) :
      VoiceStart s i v
        (startVoice s.platform rate r c note vel ref (s.triggerCounter + 1) s.ch[c.val] (readVoice s.platform ref) v)

/-- The operations that recompute steps: PBEND and RENDER (rule R248). -/
def Retunes (i : Instr) : Prop := (∃ ch b, i = .pbend ch b) ∨ ∃ n, i = .render n

/-- One move of a slot under the operation `i`, from the state `s`. -/
inductive SlotMove (s : State) (i : Instr) (v : Slot) : Slot → Prop
  | stop : SlotMove s i v (goOff v)
  | release {ch : Byte} {note : BitVec 7} (hi : i = .noteOff ch note) :
      SlotMove s i v (releaseNote s.platform ch note v)
  | envelope {n : Word32} {w : Slot} (hi : i = .render n) (h : EnvelopeMove v w) : SlotMove s i v w
  | generator {w : Slot} (h : GeneratorMove v w) : SlotMove s i v w
  | bend {ch : Byte} {b : BitVec 16} (hi : i = .pbend ch b) (x : Rat) : SlotMove s i v { v with pitchBend := x }
  | retune {rate : Rat} (hi : Retunes i) (hrate : s.sampleRate = some rate) (m : ModState) :
      SlotMove s i v (pitchUpdate s.platform rate m v)
  | start {w : Slot} (h : VoiceStart s i v w) : SlotMove s i v w

/-- The moves of a slot under one operation, one after the other. -/
abbrev SlotMoves (s : State) (i : Instr) : Slot → Slot → Prop := Relation.ReflTransGen (SlotMove s i)

/-- What every move keeps, the operation keeps. -/
theorem SlotMoves.keeps {s : State} {i : Instr} {P : Slot → Prop} (hP : ∀ v w, SlotMove s i v w → P v → P w) {v w : Slot}
    (h : SlotMoves s i v w) (hv : P v) : P w := by
  induction h with
  | refl => exact hv
  | tail _ hlast ih => exact hP _ _ hlast ih

theorem retireNote_moves (s : State) (i : Instr) (ch : Byte) (note : BitVec 7) (v : Slot) :
    SlotMoves s i v (retireNote ch note v) := by
  unfold retireNote
  split
  · exact .single .stop
  · exact .refl

theorem killOn_moves (s : State) (i : Instr) (ch : Byte) (v : Slot) : SlotMoves s i v (killOn ch v) := by
  unfold killOn
  split
  · exact .single .stop
  · exact .refl

theorem bendSlot_moves {s : State} {rate : Rat} (hrate : s.sampleRate = some rate) (ch : Byte) (b : BitVec 16) (c : Fin 16)
    (m : ModState) (x : Rat) (v : Slot) : SlotMoves s (.pbend ch b) v (bendSlot s.platform rate c m x v) := by
  unfold bendSlot
  split
  · exact .tail (.single (.bend rfl x)) (.retune (.inl ⟨ch, b, rfl⟩) hrate m)
  · exact .refl

theorem tickSlot_moves {s : State} {rate : Rat} (hrate : s.sampleRate = some rate) (n : Word32)
    (before after : Vector Channel 16) (v : Slot) :
    SlotMoves s (.render n) v (tickSlot s.platform rate before after v) := by
  unfold tickSlot
  split
  · have henv : SlotMoves s (.render n) v (envelopeStep (readVoice s.platform v.voiceRef) v) :=
      .single (.envelope rfl (envelopeStep_move _ v))
    dsimp only
    split
    · exact henv.tail (.retune (.inr ⟨n, rfl⟩) hrate _)
    · exact henv
  · exact .refl

theorem mixVoice_moves (s : State) (i : Instr) (chs : Vector Channel 16) (v : Slot) :
    SlotMoves s i v (mixVoice s.platform chs v).1 := by
  cases ha : v.active with
  | false =>
    rw [mixVoice_inactive ha]
  | true =>
    rw [mixVoice_fst ha]
    exact .single (.generator (osc_move s.platform v))

theorem renderFrame_moves {s : State} {rate : Rat} (hrate : s.sampleRate = some rate) (n : Word32) {u : State}
    (hu : u.platform = s.platform) (k : Fin 24) :
    SlotMoves s (.render n) u.v[k.val] (renderFrame rate u).1.v[k.val] := by
  have htick : SlotMoves s (.render n) u.v[k.val] (sampleTick rate u).v[k.val] := by
    unfold sampleTick
    dsimp only
    split
    · rw [frameTick_v, State.withFrameAcc_platform, hu]
      exact tickSlot_moves hrate n _ _ _
    · exact .refl
  have hpf : (sampleTick rate u).platform = s.platform := by rw [sampleTick_frame, ← hu]
  rw [renderFrame, mixFrame_v, hpf]
  exact htick.trans (mixVoice_moves s _ _ _)

theorem renderState_moves {s : State} {rate : Rat} (hrate : s.sampleRate = some rate) (n : Word32) (k : Fin 24) :
    SlotMoves s (.render n) s.v[k.val] (renderState rate n.toNat s).v[k.val] := by
  refine (renderFrames_keeps
    (P := fun u => u.platform = s.platform ∧ SlotMoves s (.render n) s.v[k.val] u.v[k.val]) ?_ n.toNat s
    ⟨rfl, .refl⟩).2
  rintro u ⟨hpf, hmoves⟩
  exact ⟨(renderFrame_platform rate u).trans hpf, hmoves.trans (renderFrame_moves hrate n hpf k)⟩

/-- The slots after a note has started: the one that `steal` picks is the new voice, every other at most retired. -/
theorem startNote_v (rate : Rat) (r : Bool) (c : Fin 16) (ch : Byte) (note vel : BitVec 7) (ref : Word32) (vo : Voice)
    (s : State) (k : Fin 24) :
    (startNote rate r c ch note vel ref vo s).v[k.val] =
      if steal (mapVec (retireNote ch note) s.v) = k then
        startVoice s.platform rate r c note vel ref (s.triggerCounter + 1) s.ch[c.val] vo (retireNote ch note s.v[k.val])
      else retireNote ch note s.v[k.val] := by
  simp only [startNote, State.withTriggerCounter_v, setSlot_getElem, State.withSlots_v, getElem_mapVec]
  split
  case isTrue h =>
    subst h
    rfl
  case isFalse => rfl

/-- Every slot gets from the old state to the new by moves. -/
theorem exec_moves {i : Instr} {s t : State} (h : exec i s = .next t) (k : Fin 24) :
    SlotMoves s i s.v[k.val] t.v[k.val] := by
  cases exec_effect h with
  | drop | setRate | control | decode => exact .refl
  | reset =>
    rw [resetEngine_v]
    exact .single .stop
  | @noteOn rate ch c ref r note vel hrate hch hk hwf =>
    rw [startNote_v]
    have hretired := retireNote_moves s (.noteOn r ch note vel ref) ch note s.v[k.val]
    split
    · exact hretired.tail (.start (.mk rfl hrate hch hk hwf))
    · exact hretired
  | noteOff ch note =>
    rw [State.mapSlots_v, getElem_mapVec]
    exact .single (.release rfl)
  | allOff =>
    rw [allNotesOff, State.mapSlots_v, getElem_mapVec]
    exact killOn_moves s i _ _
  | pbend b hrate hch =>
    rw [bendChannel, State.mapSlots_v, getElem_mapVec]
    exact bendSlot_moves hrate _ b _ _ _ _
  | render n hrate => exact renderState_moves hrate n k
  | @generator _ b gen hi hgen =>
    cases ha : (s.v[s.genSlot.val]).active with
    | false =>
      rw [stepGenerator_inactive ha]
    | true =>
      rw [stepGenerator_active ha]
      dsimp only
      rw [getElem_setVec]
      split
      case isTrue heq =>
        subst heq
        exact .single (.generator (hgen _))
      case isFalse => exact .refl

/-! ## Steps -/

/-- The two states differ in the ports, the lock and the request at most. -/
structure SameEngine (s t : State) : Prop where
  sampleRate : t.sampleRate = s.sampleRate
  frameAcc : t.frameAcc = s.frameAcc
  ch : t.ch = s.ch
  v : t.v = s.v
  platform : t.platform = s.platform

theorem fetch_sameEngine {s : State} {f : Fetched} (h : fetch s = some f) : SameEngine s f.state := by
  obtain ⟨-, hf⟩ := fetch_frame h
  rw [hf]
  exact ⟨rfl, rfl, rfl, rfl, rfl⟩

theorem releaseLock_sameEngine (s : State) : SameEngine s (releaseLock s) := ⟨rfl, rfl, rfl, rfl, rfl⟩

/-- What ports and lock do not matter to and every operation keeps, every step keeps. -/
theorem step_keeps {P : State → Prop} (hport : ∀ s t, SameEngine s t → P s → P t)
    (hexec : ∀ i s t, exec i s = .next t → P s → P t) {s t : State} (h : step s = .next t) (hs : P s) : P t := by
  obtain ⟨-, rfl⟩ | ⟨f, hf, hrun⟩ := step_cases h
  · exact hs
  · have hfetched : P f.state := hport s f.state (fetch_sameEngine hf) hs
    obtain ⟨i, u, -, hu, rfl⟩ | ⟨-, -, rfl⟩ := hrun
    · exact hport u _ (releaseLock_sameEngine u) (hexec i f.state u hu hfetched)
    · exact hport _ _ (releaseLock_sameEngine _) hfetched

/-! ## The pool is consistent -/

theorem SlotMove.offIffInactive {s : State} {i : Instr} {v w : Slot} (h : SlotMove s i v w) (hv : v.offIffInactive) :
    w.offIffInactive := by
  cases h with
  | stop => exact iff_of_true rfl rfl
  | release hi =>
    unfold releaseNote
    split
    case isTrue hheld =>
      have hactive : v.active = true := by
        simp only [Slot.sounds, Bool.and_eq_true] at hheld
        exact hheld.1.1.1
      split
      · exact iff_of_false (by simp [hactive]) (by simp)
      · exact iff_of_false (by simp [hactive]) (by simp)
    case isFalse => exact hv
  | envelope hi h =>
    cases h with
    | hold hphase hp _ => exact iff_of_false (fun ha => hphase (hv.1 ha)) hp
    | stop => exact iff_of_true rfl rfl
    | off => exact hv
  | generator h =>
    cases h with
    | run => exact hv
    | stop => exact iff_of_true rfl rfl
  | bend => exact hv
  | retune =>
    rw [pitchUpdate_frame]
    exact hv
  | start h =>
    cases h with
    | @mk rate r ch c note vel ref =>
      have hw := startVoice_started s.platform rate r c note vel ref (s.triggerCounter + 1) s.ch[c.val]
        (readVoice s.platform ref) v
      exact iff_of_false (by rw [hw.active]; decide) hw.phase

/-- Settles O57: every move of a slot keeps `active` and `phase` in agreement. -/
theorem stepKeepsThePoolConsistent : Obligations.StepKeepsThePoolConsistent := by
  intro s t hs h
  refine step_keeps (P := State.poolConsistent) ?_ ?_ h hs
  · intro s t hst hs
    simpa only [State.poolConsistent, hst.v] using hs
  · intro i s t h hs k
    exact (exec_moves h k).keeps (fun _ _ => SlotMove.offIffInactive) (hs k)

/-! ## The envelopes are in range -/

/-- Moves that leave activity, class, goals and volume alone leave the range alone. -/
theorem envelopeInRange_congr {v w : Slot} (hv : v.envelopeInRange) (hactive : w.active = true → v.active = true)
    (hclass : w.isCgbVoice = v.isCgbVoice) (hvol : w.envelopeVolume = v.envelopeVolume)
    (hgoal : w.envelopeGoal = v.envelopeGoal) (hsus : w.sustainGoal = v.sustainGoal) : w.envelopeInRange := by
  intro hw
  rw [hclass, hvol, hgoal, hsus]
  exact hv (hactive hw)

theorem envelopeInRange_goOff (v : Slot) : (goOff v).envelopeInRange := by
  intro ha
  cases ha

theorem SlotMove.envelopeInRange {s : State} {i : Instr} {v w : Slot} (h : SlotMove s i v w) (hv : v.envelopeInRange) :
    w.envelopeInRange := by
  cases h with
  | stop => exact envelopeInRange_goOff v
  | release hi =>
    unfold releaseNote
    split
    · split
      · exact envelopeInRange_congr hv id rfl rfl rfl rfl
      · exact envelopeInRange_congr hv id rfl rfl rfl rfl
    · exact hv
  | envelope hi h =>
    cases h with
    | hold _ _ hvol =>
      rw [envelopeInRange_iff] at hv ⊢
      intro ha
      obtain ⟨hgoals, hold⟩ := hv ha
      exact ⟨hgoals, hvol hgoals hold⟩
    | stop => exact envelopeInRange_goOff _
    | off => exact hv
  | generator h =>
    cases h with
    | run => exact hv
    | stop => exact envelopeInRange_goOff _
  | bend => exact hv
  | retune =>
    rw [pitchUpdate_frame]
    exact hv
  | start h =>
    cases h with
    | mk hi hrate hch hk hwf => exact startVoice_envelopeInRange _ _ _ _ _ _ _ _ _ _ hwf

/-- Settles O58: every move of a slot keeps the volume and the goals in the range of the class. -/
theorem stepKeepsTheEnvelopesInRange : Obligations.StepKeepsTheEnvelopesInRange := by
  intro s t hs h
  refine step_keeps (P := State.envelopesInRange) ?_ ?_ h hs
  · intro s t hst hs
    simpa only [State.envelopesInRange, hst.v] using hs
  · intro i s t h hs k
    exact (exec_moves h k).keeps (fun _ _ => SlotMove.envelopeInRange) (hs k)

end Sys2Proof.Machine
end

section
/-! PROOFS. The write columns of the access matrix (rules R20, R37), field by field and channel by channel, and what of a
slot only NOTE_ON writes (rules R247, R248, R285). -/

namespace Sys2Proof.Machine

/-! ## The access matrix -/

/-- The columns of the access matrix (rule R37) for the fields that are not of a channel. Each field is kept by default,
so that a value of this structure names only what the operation writes. -/
structure Writes (i : Instr) (s t : State) : Prop where
  sampleRate : t.sampleRate = s.sampleRate ∨ ∃ w, i = .setRate w := by exact .inl rfl
  frameAcc : t.frameAcc = s.frameAcc ∨ i = .reset ∨ ∃ n, i = .render n := by exact .inl rfl
  triggerCounter : t.triggerCounter = s.triggerCounter ∨ i = .reset ∨ ∃ r c n v a, i = .noteOn r c n v a := by
    exact .inl rfl
  audio : t.audio = s.audio ∨ ∃ n, i = .render n := by exact .inl rfl
  ch : t.ch = s.ch ∨ i = .reset ∨ (∃ n, i = .render n) ∨ (∃ c b, i = .pbend c b) ∨
    ∃ c k v w rest, encode i = .command w ∧ splitWord w = ⟨6, 0, 0, c, 0, k, 0, v, rest⟩ := by exact .inl rfl
  v : t.v = s.v ∨ i = .reset ∨ (∃ n, i = .render n) ∨ (∃ c b, i = .pbend c b) ∨ (∃ r c n v a, i = .noteOn r c n v a) ∨
    (∃ c n, i = .noteOff c n) ∨ (∃ c, i = .allOff c) ∨ (∃ c v, i = .ccAlloff c v) ∨ ∃ b, encode i = .kind b := by
    exact .inl rfl
  lock : t.lock = s.lock := by rfl
  hostQueue : t.hostQueue = s.hostQueue := by rfl
  audioQueue : t.audioQueue = s.audioQueue := by rfl
  arbitrations : t.arbitrations = s.arbitrations := by rfl
  decResult : t.decResult = s.decResult ∨ ∃ b, i = .decodeRaw b ∨ i = .decodeDpcm b := by exact .inl rfl
  genOut : t.genOut = s.genOut ∨ ∃ b, encode i = .kind b := by exact .inl rfl
  request : t.request = s.request := by rfl
  decAddr : t.decAddr = s.decAddr := by rfl
  decLen : t.decLen = s.decLen := by rfl
  genSlot : t.genSlot = s.genSlot := by rfl

/-- The fields of the command word of a control change (rules R70, R108). -/
theorem splitWord_ccWord (k : BitVec 7) (ch : Byte) (value : BitVec 7) :
    splitWord (ccWord k ch value) = ⟨6, 0, 0, ch, 0, k, 0, value, 0⟩ := by
  rw [ccWord, commandWord, splitWord_joinWord]

theorem exec_writes {i : Instr} {s t : State} (h : exec i s = .next t) : Writes i s t := by
  cases exec_effect h with
  | drop => exact {}
  | reset =>
    exact {
      frameAcc := .inr (.inl rfl), triggerCounter := .inr (.inl rfl), ch := .inr (.inl rfl), v := .inr (.inl rfl) }
  | setRate => exact { sampleRate := .inr ⟨_, rfl⟩ }
  | noteOn =>
    exact {
      triggerCounter := .inr (.inr ⟨_, _, _, _, _, rfl⟩)
      v := .inr (.inr (.inr (.inr (.inl ⟨_, _, _, _, _, rfl⟩)))) }
  | noteOff => exact { v := .inr (.inr (.inr (.inr (.inr (.inl ⟨_, _, rfl⟩))))) }
  | allOff hi =>
    obtain hi | ⟨value, hi⟩ := hi
    · exact { v := .inr (.inr (.inr (.inr (.inr (.inr (.inl ⟨_, hi⟩)))))) }
    · exact { v := .inr (.inr (.inr (.inr (.inr (.inr (.inr (.inl ⟨_, _, hi⟩))))))) }
  | control hi =>
    exact { ch := .inr (.inr (.inr (.inr ⟨_, _, _, _, _, hi, splitWord_ccWord _ _ _⟩))) }
  | pbend =>
    exact { ch := .inr (.inr (.inr (.inl ⟨_, _, rfl⟩))), v := .inr (.inr (.inr (.inl ⟨_, _, rfl⟩))) }
  | @render rate n =>
    obtain ⟨acc, cs, vs, frames, hs⟩ := renderState_frame rate n.toNat s
    rw [hs]
    exact {
      frameAcc := .inr (.inr ⟨_, rfl⟩), audio := .inr ⟨_, rfl⟩
      ch := .inr (.inr (.inl ⟨_, rfl⟩)), v := .inr (.inr (.inl ⟨_, rfl⟩)) }
  | decode hi => exact { decResult := .inr ⟨_, hi⟩ }
  | @generator _ b gen hi =>
    obtain ⟨vs, out, hs⟩ := stepGenerator_frame gen s
    rw [hs]
    exact {
      v := .inr (.inr (.inr (.inr (.inr (.inr (.inr (.inr ⟨_, hi⟩)))))))
      genOut := .inr ⟨_, hi⟩ }

/-- The operation is a control change on channel `c`, of one of the controllers `ks`. -/
def ByController (i : Instr) (c : Fin 16) (ks : List (BitVec 7)) : Prop :=
  ∃ ch k v w rest, encode i = .command w ∧ splitWord w = ⟨6, 0, 0, ch, 0, k, 0, v, rest⟩ ∧ k ∈ ks ∧ ch.toNat = c.val

/-- The columns of the access matrix (rule R37) for channel `c`, which becomes `y`; kept by default. -/
structure ChannelWrites (i : Instr) (c : Fin 16) (x y : Channel) : Prop where
  volume : y.volume = x.volume ∨ i = .reset ∨ ByController i c [7] := by exact .inl rfl
  pan : y.pan = x.pan ∨ i = .reset ∨ ByController i c [10] := by exact .inl rfl
  range : y.pitchBendRange = x.pitchBendRange ∨ i = .reset ∨ ByController i c [6] := by exact .inl rfl
  bend : y.pitchBendSemitones = x.pitchBendSemitones ∨ i = .reset ∨ ∃ ch b, i = .pbend ch b ∧ ch.toNat = c.val := by
    exact .inl rfl
  program : y.program = x.program ∨ i = .reset := by exact .inl rfl
  modState : y.modState = x.modState ∨ i = .reset ∨ (∃ n, i = .render n) ∨
    ByController i c [1, 21, 22, 24, 26, 29, 30] := by exact .inl rfl

theorem ChannelMove.writes {s : State} {i : Instr} {c : Fin 16} {y : Channel} (h : ChannelMove s i c y) :
    ChannelWrites i c s.ch[c.val] y := by
  cases h with
  | keep => exact {}
  | reset hi => exact ⟨.inr (.inl hi), .inr (.inl hi), .inr (.inl hi), .inr (.inl hi), .inr hi, .inr (.inl hi)⟩
  | @control ch k value f hi hf hch =>
    have hby {ks : List (BitVec 7)} (hk : k ∈ ks) : ByController i c ks :=
      ⟨_, _, _, _, _, hi, splitWord_ccWord _ _ _, hk, hch⟩
    cases hf with
    | range => exact { range := .inr (.inr (hby (by simp))) }
    | volume => exact { volume := .inr (.inr (hby (by simp))) }
    | pan => exact { pan := .inr (.inr (hby (by simp))) }
    | modState hk => exact { modState := .inr (.inr (.inr (hby hk))) }
  | bend hi hch => exact { bend := .inr (.inr ⟨_, _, hi, hch⟩) }
  | lfo hi => exact { modState := .inr (.inr (.inl ⟨_, hi⟩)) }

/-- Settles O9: what each operation writes, and what it can make of a channel. -/
theorem operationsWriteOnlyTheirOwnState : Obligations.OperationsWriteOnlyTheirOwnState := by
  intro i s t h
  obtain ⟨hrate, hacc, hcounter, haudio, hch, hv, hlock, hhost, hqueue, harb, hdec, hgen, hreq, haddr, hlen, hslot⟩ :=
    exec_writes h
  refine ⟨hrate, hacc, hcounter, haudio, hch, hv, hlock, hhost, hqueue, harb, hdec, hgen, hreq, haddr, hlen, hslot, ?_⟩
  intro c
  obtain ⟨hvolume, hpan, hrange, hbend, hprogram, hmod⟩ := (exec_channel h c).writes
  exact ⟨hvolume, hpan, hrange, hbend, hprogram, hmod⟩

/-! ## Slots -/

/-- The slot `w` plays the voice of `v`: class, pan and identity are the same, and it sounds only if `v` does. -/
structure SameVoice (v w : Slot) : Prop where
  active : w.active = true → v.active = true := by exact id
  pan : w.pan = v.pan := by rfl
  channel : w.channel = v.channel := by rfl
  note : w.note = v.note := by rfl
  velocity : w.velocity = v.velocity := by rfl
  voiceRef : w.voiceRef = v.voiceRef := by rfl
  isRhythm : w.isRhythm = v.isRhythm := by rfl
  triggerOrder : w.triggerOrder = v.triggerOrder := by rfl
  isCgbVoice : w.isCgbVoice = v.isCgbVoice := by rfl

/-- The three step fields are the same (rule R249). -/
structure SameSteps (v w : Slot) : Prop where
  sampleStep : w.sampleStep = v.sampleStep := by rfl
  squarePhaseInc : w.squarePhaseInc = v.squarePhaseInc := by rfl
  noiseInterval : w.noiseInterval = v.noiseInterval := by rfl

theorem SameVoice.trans {u v w : Slot} (h : SameVoice u v) (h' : SameVoice v w) : SameVoice u w where
  active := h.active ∘ h'.active
  pan := h'.pan.trans h.pan
  channel := h'.channel.trans h.channel
  note := h'.note.trans h.note
  velocity := h'.velocity.trans h.velocity
  voiceRef := h'.voiceRef.trans h.voiceRef
  isRhythm := h'.isRhythm.trans h.isRhythm
  triggerOrder := h'.triggerOrder.trans h.triggerOrder
  isCgbVoice := h'.isCgbVoice.trans h.isCgbVoice

theorem SameSteps.trans {u v w : Slot} (h : SameSteps u v) (h' : SameSteps v w) : SameSteps u w where
  sampleStep := h'.sampleStep.trans h.sampleStep
  squarePhaseInc := h'.squarePhaseInc.trans h.squarePhaseInc
  noiseInterval := h'.noiseInterval.trans h.noiseInterval

theorem goOff_sameVoice (v : Slot) : SameVoice v (goOff v) := { active := fun h => by cases h }

/-- Every move but the start of a voice keeps the voice; and its steps, but for a pitch update of a voice that is no
rhythm voice. -/
theorem SlotMove.sameVoice {s : State} {i : Instr} {v w : Slot} (h : SlotMove s i v w) :
    (SameVoice v w ∧ (SameSteps v w ∨ v.isRhythm = false ∧ Retunes i ∧
        ∃ rate m, s.sampleRate = some rate ∧ w = pitchUpdate s.platform rate m v)) ∨ VoiceStart s i v w := by
  cases h with
  | stop => exact .inl ⟨goOff_sameVoice v, .inl {}⟩
  | release hi =>
    unfold releaseNote
    split
    · split
      · exact .inl ⟨{}, .inl {}⟩
      · exact .inl ⟨{}, .inl {}⟩
    · exact .inl ⟨{}, .inl {}⟩
  | envelope hi h =>
    cases h with
    | hold => exact .inl ⟨{}, .inl {}⟩
    | stop => exact .inl ⟨{ active := fun h => by cases h }, .inl {}⟩
    | off => exact .inl ⟨{}, .inl {}⟩
  | generator h =>
    cases h with
    | run => exact .inl ⟨{}, .inl {}⟩
    | stop => exact .inl ⟨{ active := fun h => by cases h }, .inl {}⟩
  | bend => exact .inl ⟨{}, .inl {}⟩
  | @retune rate hi hrate m =>
    cases hr : v.isRhythm with
    | true =>
      rw [pitchUpdate_rhythm hr]
      exact .inl ⟨{}, .inl {}⟩
    | false =>
      refine .inl ⟨?_, .inr ⟨rfl, hi, rate, m, hrate, rfl⟩⟩
      rw [pitchUpdate_frame]
      exact {}
  | start h => exact .inr h

/-- No voice starts but by NOTE_ON. -/
theorem VoiceStart.noteOn {s : State} {i : Instr} {v w : Slot} (h : VoiceStart s i v w) :
    ∃ r ch note vel ref, i = .noteOn r ch note vel ref := by
  cases h with
  | mk hi => exact ⟨_, _, _, _, _, hi⟩

theorem exec_sameVoice {i : Instr} {s t : State} (h : exec i s = .next t) (hi : ∀ r c n v a, i ≠ .noteOn r c n v a)
    (k : Fin 24) : SameVoice s.v[k.val] t.v[k.val] := by
  refine (exec_moves h k).keeps (P := SameVoice s.v[k.val]) ?_ {}
  intro v w hmove hv
  obtain ⟨hsame, -⟩ | hstart := hmove.sameVoice
  · exact hv.trans hsame
  · obtain ⟨r, ch, note, vel, ref, hnote⟩ := hstart.noteOn
    exact absurd hnote (hi r ch note vel ref)

theorem exec_sameSteps {i : Instr} {s t : State} (h : exec i s = .next t) (hi : ∀ r c n v a, i ≠ .noteOn r c n v a)
    (k : Fin 24) (hk : (s.v[k.val]).isRhythm = true ∨ ¬Retunes i) : SameSteps s.v[k.val] t.v[k.val] := by
  refine ((exec_moves h k).keeps (P := fun v => SameVoice s.v[k.val] v ∧ SameSteps s.v[k.val] v) ?_ ⟨{}, {}⟩).2
  rintro v w hmove ⟨hvoice, hsteps⟩
  obtain ⟨hsame, hstep⟩ | hstart := hmove.sameVoice
  · refine ⟨hvoice.trans hsame, ?_⟩
    obtain hstep | ⟨hrhythm, hretunes, -⟩ := hstep
    · exact hsteps.trans hstep
    · obtain hk | hk := hk
      · rw [hvoice.isRhythm, hk] at hrhythm
        cases hrhythm
      · exact absurd hretunes hk
  · obtain ⟨r, ch, note, vel, ref, hnote⟩ := hstart.noteOn
    exact absurd hnote (hi r ch note vel ref)

/-- Settles O10: every move but the start of a voice keeps the voice, and the steps where it is no pitch update. -/
theorem stepsPanAndIdentityAreKept : Obligations.StepsPanAndIdentityAreKept := by
  intro i s t k h hi
  obtain ⟨-, hpan, hchannel, hnote, hvelocity, href, hrhythm, horder, -⟩ := exec_sameVoice h hi k
  refine ⟨hpan, hchannel, hnote, hvelocity, href, hrhythm, horder, fun hk => ?_⟩
  have hkeep : (s.v[k.val]).isRhythm = true ∨ ¬Retunes i := by
    obtain hk | ⟨hbend, hrender⟩ := hk
    · exact .inl hk
    · refine .inr ?_
      rintro (⟨ch, b, hi⟩ | ⟨n, hi⟩)
      · exact hbend ch b hi
      · exact hrender n hi
  obtain ⟨hsample, hsquare, hnoise⟩ := exec_sameSteps h hi k hkeep
  exact ⟨hsample, hsquare, hnoise⟩

end Sys2Proof.Machine
end

section
/-! PROOFS. Every active voice has the bend of its channel (rule R34): which operations write a bend, and that those write
both. -/

namespace Sys2Proof.Machine

/-! ## Bends -/

/-- Of the moves only those of PBEND and the start of a voice write the bend. -/
theorem SlotMove.pitchBend {s : State} {i : Instr} {v w : Slot} (h : SlotMove s i v w) (hi : ∀ ch b, i ≠ .pbend ch b) :
    w.pitchBend = v.pitchBend ∨ VoiceStart s i v w := by
  cases h with
  | stop => exact .inl rfl
  | release hi =>
    unfold releaseNote
    split
    · split <;> exact .inl rfl
    · exact .inl rfl
  | envelope hi h => cases h <;> exact .inl rfl
  | generator h => cases h <;> exact .inl rfl
  | bend hbend => exact absurd hbend (hi _ _)
  | retune =>
    rw [pitchUpdate_frame]
    exact .inl rfl
  | start h => exact .inr h

theorem exec_pitchBend {i : Instr} {s t : State} (h : exec i s = .next t) (hnote : ∀ r c n v a, i ≠ .noteOn r c n v a)
    (hbend : ∀ ch b, i ≠ .pbend ch b) (k : Fin 24) : (t.v[k.val]).pitchBend = (s.v[k.val]).pitchBend := by
  refine (exec_moves h k).keeps (P := fun v => v.pitchBend = (s.v[k.val]).pitchBend) ?_ rfl
  intro v w hmove hv
  obtain hsame | hstart := hmove.pitchBend hbend
  · rw [hsame, hv]
  · obtain ⟨r, ch, note, vel, ref, hi⟩ := hstart.noteOn
    exact absurd hi (hnote r ch note vel ref)

/-- An operation that writes no bend keeps the bends together. -/
theorem bendsAgree_of_kept {i : Instr} {s t : State} (h : exec i s = .next t) (hreset : i ≠ .reset)
    (hnote : ∀ r c n v a, i ≠ .noteOn r c n v a) (hbend : ∀ ch b, i ≠ .pbend ch b)
    (hs : s.bendsAgree) : t.bendsAgree := by
  intro k hactive
  have hsame := exec_sameVoice h hnote k
  have hchannel : (t.ch[(s.v[k.val]).channel.val]).pitchBendSemitones =
      (s.ch[(s.v[k.val]).channel.val]).pitchBendSemitones := by
    obtain hkept | hi | ⟨ch, b, hi, -⟩ := (exec_channel h (s.v[k.val]).channel).writes.bend
    · exact hkept
    · exact absurd hi hreset
    · exact absurd hi (hbend ch b)
  rw [exec_pitchBend h hnote hbend k]
  simp only [hsame.channel]
  rw [hchannel]
  exact hs k (hsame.active hactive)

theorem resetEngine_bendsAgree (s : State) : (resetEngine s).bendsAgree := by
  intro k hactive
  rw [resetEngine_v] at hactive
  cases hactive

/-- If the slot sounds, it has the bend that the channel file `cs` gives its channel (rule R34). -/
def Slot.bendsWith (cs : Vector Channel 16) (v : Slot) : Prop :=
  v.active = true → v.pitchBend = (cs[v.channel.val]).pitchBendSemitones

theorem bendsAgree_iff (s : State) : s.bendsAgree ↔ ∀ k : Fin 24, (s.v[k.val]).bendsWith s.ch := Iff.rfl

theorem retireNote_bendsWith (ch : Byte) (note : BitVec 7) {cs : Vector Channel 16} {v : Slot} (hv : v.bendsWith cs) :
    (retireNote ch note v).bendsWith cs := by
  unfold retireNote
  split
  · intro hactive
    cases hactive
  · exact hv

/-- The new voice takes the bend of its channel (rule R165). -/
theorem startNote_bendsAgree (rate : Rat) (r : Bool) (c : Fin 16) (ch : Byte) (note vel : BitVec 7) (ref : Word32)
    (vo : Voice) {s : State} (hs : s.bendsAgree) : (startNote rate r c ch note vel ref vo s).bendsAgree := by
  rw [bendsAgree_iff] at hs ⊢
  intro k
  rw [startNote_v]
  split
  · have hw := startVoice_started s.platform rate r c note vel ref (s.triggerCounter + 1) s.ch[c.val] vo
      (retireNote ch note s.v[k.val])
    intro _
    simp only [hw.pitchBend, hw.channel]
    rfl
  · exact retireNote_bendsWith ch note (hs k)

/-- A slot after PBEND on channel `c`, in a channel file that has the new bend there (rule R106). -/
theorem bendSlot_bendsWith (pf : Platform) (rate : Rat) (c : Fin 16) (m : ModState) {x : Channel} {cs : Vector Channel 16}
    {v : Slot} (hv : v.bendsWith cs) : (bendSlot pf rate c m x.pitchBendSemitones v).bendsWith (cs.set c.val x) := by
  unfold bendSlot
  split
  case isTrue hon =>
    simp only [Bool.and_eq_true, decide_eq_true_eq] at hon
    rw [pitchUpdate_frame]
    intro _
    simp [hon.2]
  case isFalse hoff =>
    intro hactive
    have hne : ¬ c = v.channel := by
      intro heq
      simp [hactive, heq] at hoff
    rw [getElem_setVec, if_neg hne]
    exact hv hactive

/-- PBEND writes the same bend on the channel and on its active voices (rule R106). -/
theorem bendChannel_bendsAgree (rate : Rat) (c : Fin 16) (b : BitVec 16) {s : State} (hs : s.bendsAgree) :
    (bendChannel rate c b s).bendsAgree := by
  rw [bendsAgree_iff] at hs ⊢
  intro k
  rw [bendChannel, State.mapSlots_v, getElem_mapVec]
  exact bendSlot_bendsWith _ _ _ _ (hs k)

theorem exec_bendsAgree {i : Instr} {s t : State} (h : exec i s = .next t) (hs : s.bendsAgree) : t.bendsAgree := by
  cases i with
  | reset =>
    cases h
    exact resetEngine_bendsAgree s
  | noteOn r ch note vel ref =>
    obtain ⟨-, rfl⟩ | ⟨rate, c, -, -, -, -, rfl⟩ := execNoteOn_next h
    · exact hs
    · exact startNote_bendsAgree rate r c ch note vel ref _ hs
  | pbend ch b =>
    obtain rfl | ⟨rate, c, -, -, rfl⟩ := execPbend_next h
    · exact hs
    · exact bendChannel_bendsAgree rate c b hs
  | _ => exact bendsAgree_of_kept h (by simp) (by simp) (by simp) hs

/-- Settles O59: PBEND and NOTE_ON write a bend with the channel's, RESET stops every voice, all else writes none. -/
theorem stepKeepsTheBendsTogether : Obligations.StepKeepsTheBendsTogether := by
  intro s t hs h
  refine step_keeps (P := State.bendsAgree) ?_ ?_ h hs
  · intro s t hst hs
    simpa only [State.bendsAgree, hst.v, hst.ch] using hs
  · exact fun i s t => exec_bendsAgree

end Sys2Proof.Machine
end

section
/-! PROOFS. In exact reals every operation keeps the clocks, the volumes and pans, and the generators legal (rules R22,
R23, R26, R30, R145). -/

namespace Sys2Proof.Machine

/-! ## Clocks -/

theorem sampleTick_frameAcc_nonneg {rate : Rat} {s : State} (hfp : s.platform.params.fp = .exact) (hs : 0 ≤ s.frameAcc) :
    0 ≤ (sampleTick rate s).frameAcc := by
  unfold sampleTick
  simp only [hfp, Fp.addQ_exact, Fp.subQ_exact]
  split
  case isTrue hdue =>
    change 0 ≤ s.frameAcc + 1 - samplesPerGbaFrame .exact rate
    linarith
  case isFalse =>
    change 0 ≤ s.frameAcc + 1
    linarith

theorem renderState_frameAcc_nonneg {s : State} (rate : Rat) (n : Nat) (hfp : s.platform.params.fp = .exact)
    (hs : 0 ≤ s.frameAcc) : 0 ≤ (renderState rate n s).frameAcc := by
  refine (renderFrames_keeps (P := fun u => u.platform.params.fp = .exact ∧ 0 ≤ u.frameAcc) ?_ n s ⟨hfp, hs⟩).2
  rintro u ⟨hu, hacc⟩
  rw [renderFrame_frame]
  exact ⟨hu, sampleTick_frameAcc_nonneg hu hacc⟩

theorem exec_clocksLegal {i : Instr} {s t : State} (h : exec i s = .next t) (hfp : s.platform.params.fp = .exact)
    (hs : s.clocksLegal) : t.clocksLegal := by
  obtain ⟨hrate, hacc⟩ := hs
  cases exec_effect h with
  | drop | noteOn | noteOff | allOff | control | pbend | decode => exact ⟨hrate, hacc⟩
  | reset => exact ⟨hrate, le_refl _⟩
  | @setRate w hw =>
    refine ⟨fun r hr => ?_, hacc⟩
    cases hr
    exact_mod_cast Nat.pos_of_ne_zero fun h0 => hw (BitVec.eq_of_toNat_eq h0)
  | @render rate n =>
    have hpos := renderState_frameAcc_nonneg rate n.toNat hfp hacc
    obtain ⟨acc, cs, vs, frames, hs⟩ := renderState_frame rate n.toNat s
    rw [hs] at hpos ⊢
    exact ⟨hrate, hpos⟩
  | @generator _ b gen =>
    obtain ⟨vs, out, hs⟩ := stepGenerator_frame gen s
    rw [hs]
    exact ⟨hrate, hacc⟩

/-! ## Volumes and pans -/

/-- The volume and the pan of a channel are in 0..1 (rule R26). -/
def Channel.mixLegal (x : Channel) : Prop := 0 ≤ x.volume ∧ x.volume ≤ 1 ∧ 0 ≤ x.pan ∧ x.pan ≤ 1

theorem ratioOf_exact_range (value : BitVec 7) : 0 ≤ ratioOf .exact value ∧ ratioOf .exact value ≤ 1 := by
  have hlt : (value.toNat : Rat) ≤ 127 := by exact_mod_cast Nat.le_of_lt_succ value.isLt
  rw [ratioOf, Fp.divQ_exact]
  exact ⟨by positivity, by rw [div_le_one (by norm_num)]; exact hlt⟩

theorem ChannelMove.mixLegal {s : State} {i : Instr} {c : Fin 16} {y : Channel} (h : ChannelMove s i c y)
    (hfp : s.platform.params.fp = .exact) (hs : (s.ch[c.val]).mixLegal) : y.mixLegal := by
  obtain ⟨hv0, hv1, hp0, hp1⟩ := hs
  cases h with
  | keep | bend | lfo => exact ⟨hv0, hv1, hp0, hp1⟩
  | reset => exact ⟨zero_le_one, le_refl _, by norm_num [Channel.resetValue], by norm_num [Channel.resetValue]⟩
  | @control ch k value f hi hf =>
    rw [hfp] at hf
    obtain ⟨hr0, hr1⟩ := ratioOf_exact_range value
    cases hf with
    | range | modState => exact ⟨hv0, hv1, hp0, hp1⟩
    | volume => exact ⟨hr0, hr1, hp0, hp1⟩
    | pan => exact ⟨hv0, hv1, hr0, hr1⟩

theorem voicePan_exact_range {vo : Voice} (hwf : vo.wellFormed = true) :
    0 ≤ voicePan .exact vo ∧ voicePan .exact vo ≤ 1 := by
  obtain ⟨-, hpan, -⟩ := (wellFormed_iff vo).1 hwf
  have hint : vo.pan.toInt = (vo.pan.toNat : Int) := by rw [BitVec.toInt_eq_toNat_cond, if_pos (by omega)]
  unfold voicePan
  split
  · norm_num
  · rw [Fp.divQ_exact, hint]
    exact ⟨by positivity, by rw [div_le_one (by norm_num)]; exact_mod_cast hpan⟩

/-- The pan position of a new voice is the mean of two positions in 0..1 (rule R166). -/
theorem VoiceStart.pan {s : State} {i : Instr} {v w : Slot} (h : VoiceStart s i v w) (hfp : s.platform.params.fp = .exact)
    (hch : ∀ c : Fin 16, (s.ch[c.val]).mixLegal) : 0 ≤ w.pan ∧ w.pan ≤ 1 := by
  cases h with
  | @mk rate r ch c note vel ref hi hrate hcval hk hwf =>
    have hw := startVoice_started s.platform rate r c note vel ref (s.triggerCounter + 1) s.ch[c.val]
      (readVoice s.platform ref) v
    obtain ⟨hvo0, hvo1⟩ := voicePan_exact_range hwf
    obtain ⟨-, -, hp0, hp1⟩ := hch c
    rw [hw.pan, hfp, Fp.divQ_exact, Fp.addQ_exact]
    constructor <;> linarith

theorem exec_mixLegal {i : Instr} {s t : State} (h : exec i s = .next t) (hfp : s.platform.params.fp = .exact)
    (hs : s.mixLegal) : t.mixLegal := by
  obtain ⟨hch, hv⟩ := hs
  refine ⟨fun c => (exec_channel h c).mixLegal hfp (hch c), fun k => ?_⟩
  refine (exec_moves h k).keeps (P := fun v => 0 ≤ v.pan ∧ v.pan ≤ 1) ?_ (hv k)
  intro v w hmove hv
  obtain ⟨hsame, -⟩ | hstart := hmove.sameVoice
  · rw [hsame.pan]
    exact hv
  · exact hstart.pan hfp hch

/-! ## Generators -/

theorem noiseIntervalOf_pos {p : Params} (hp : p.fp = .exact) {rate : Rat} (hrate : 0 < rate) (key : Int) (total : Rat) :
    0 < noiseIntervalOf p rate key total := by
  have hhz (b : Byte) : 0 < nr43Hz .exact b := by
    have hratio : (0 : Rat) < if b.toNat % 8 = 0 then 1 / 2 else ((b.toNat % 8 : Nat) : Rat) := by
      split
      · norm_num
      case isFalse h0 => exact_mod_cast Nat.pos_of_ne_zero h0
    have hclock : (0 : Rat) < noiseClock := by norm_num [noiseClock]
    simp only [nr43Hz, Fp.divQ_exact, Fp.mulQ_exact]
    positivity
  rw [noiseIntervalOf, noiseKeyToHz, hp, Fp.divQ_exact]
  exact div_pos hrate (hhz _)

/-- A pitch update leaves the noise interval as it is, or, on a noise voice, writes one of rule R246. -/
theorem pitchUpdate_noiseInterval_pos {pf : Platform} (hfp : pf.params.fp = .exact) {rate : Rat} (hrate : 0 < rate)
    (m : ModState) {v : Slot} (hk : (readVoice pf v.voiceRef).kind = .noise) (hv : 0 < v.noiseInterval) :
    0 < (pitchUpdate pf rate m v).noiseInterval := by
  unfold pitchUpdate
  split
  · exact hv
  · rw [configure_noise hk]
    exact noiseIntervalOf_pos hfp hrate _ _

theorem VoiceStart.generatorLegal {s : State} {i : Instr} {v w : Slot} (h : VoiceStart s i v w)
    (hfp : s.platform.params.fp = .exact) (hrate : ∀ r, s.sampleRate = some r → 0 < r) : w.generatorLegal s.platform := by
  cases h with
  | @mk rate r ch c note vel ref hi hr hch hk hwf =>
    have hw := startVoice_started s.platform rate r c note vel ref (s.triggerCounter + 1) s.ch[c.val]
      (readVoice s.platform ref) v
    intro _
    rw [hw.voiceRef, hw.isCgbVoice]
    refine ⟨hk, rfl, fun hnoise => ?_⟩
    rw [startVoice_noiseInterval _ _ _ _ _ _ _ _ _ _ rfl hnoise]
    exact noiseIntervalOf_pos hfp (hrate rate hr) _ _

theorem SlotMove.generatorLegal {s : State} {i : Instr} {v w : Slot} (h : SlotMove s i v w)
    (hfp : s.platform.params.fp = .exact) (hrate : ∀ r, s.sampleRate = some r → 0 < r)
    (hv : v.generatorLegal s.platform) : w.generatorLegal s.platform := by
  obtain ⟨hsame, hsteps⟩ | hstart := h.sameVoice
  · intro hactive
    obtain ⟨hk, hclass, hnoise⟩ := hv (hsame.active hactive)
    rw [hsame.voiceRef, hsame.isCgbVoice]
    refine ⟨hk, hclass, fun hkind => ?_⟩
    obtain hsteps | ⟨-, -, rate, m, hr, rfl⟩ := hsteps
    · rw [hsteps.noiseInterval]
      exact hnoise hkind
    · exact pitchUpdate_noiseInterval_pos hfp (hrate rate hr) m hkind (hnoise hkind)
  · exact hstart.generatorLegal hfp hrate

theorem exec_generatorsLegal {i : Instr} {s t : State} (h : exec i s = .next t) (hfp : s.platform.params.fp = .exact)
    (hrate : ∀ r, s.sampleRate = some r → 0 < r) (hs : s.generatorsLegal) : t.generatorsLegal := by
  intro k
  rw [exec_platform h]
  exact (exec_moves h k).keeps (fun _ _ hmove => hmove.generatorLegal hfp hrate) (hs k)

/-- The premises and the conclusion of `StepKeepsTheEngineLegal`, as one invariant. -/
structure EngineLegal (s : State) : Prop where
  fp : s.platform.params.fp = .exact
  clocks : s.clocksLegal
  mix : s.mixLegal
  generators : s.generatorsLegal

theorem EngineLegal.congr {s t : State} (hst : SameEngine s t) (hs : EngineLegal s) : EngineLegal t where
  fp := hst.platform ▸ hs.fp
  clocks := by simpa only [State.clocksLegal, hst.sampleRate, hst.frameAcc] using hs.clocks
  mix := by simpa only [State.mixLegal, hst.ch, hst.v] using hs.mix
  generators := by simpa only [State.generatorsLegal, hst.v, hst.platform] using hs.generators

theorem exec_engineLegal {i : Instr} {s t : State} (h : exec i s = .next t) (hs : EngineLegal s) : EngineLegal t where
  fp := by rw [exec_platform h, hs.fp]
  clocks := exec_clocksLegal h hs.fp hs.clocks
  mix := exec_mixLegal h hs.fp hs.mix
  generators := exec_generatorsLegal h hs.fp hs.clocks.1 hs.generators

/-- Settles O60: the three invariants together are kept by every operation. -/
theorem stepKeepsTheEngineLegal : Obligations.StepKeepsTheEngineLegal := by
  intro s t hfp hclocks hmix hgen h
  have ht : EngineLegal t :=
    step_keeps (fun _ _ => EngineLegal.congr) (fun _ _ _ => exec_engineLegal) h ⟨hfp, hclocks, hmix, hgen⟩
  exact ⟨ht.clocks, ht.mix, ht.generators⟩

end Sys2Proof.Machine
end

section
/-! PROOFS. The voice that a NOTE_ON leaves (rules R33, R175), the lock and the command port (rules R25, R62, R63), RESET
(rules R36, R274) and the clipped output (rules R31, R192). -/

namespace Sys2Proof.Machine

/-! ## One voice of a channel and a note -/

theorem sounds_iff {ch : Byte} {c : Fin 16} (hch : ch.toNat = c.val) (v : Slot) (note : BitVec 7) :
    v.sounds ch note = true ↔ v.active = true ∧ v.channel = c ∧ v.note = note := by
  simp [Slot.sounds, hch, Fin.ext_iff, and_assoc]

theorem retireNote_silent (ch : Byte) (note : BitVec 7) (v : Slot) : (retireNote ch note v).sounds ch note = false := by
  unfold retireNote
  split
  · rfl
  case isFalse h => simpa using h

/-- Settles O25: the slot that `steal` picks plays the note, every other that did was retired. -/
theorem noteOnLeavesExactlyOneSuchVoice : Obligations.NoteOnLeavesExactlyOneSuchVoice := by
  intro s t r ch c note vel ref hch hk h
  obtain ⟨hdrop | hdrop, -⟩ | ⟨rate, d, -, hd, -, -, rfl⟩ := execNoteOn_next h
  · rw [channelOf_some hch] at hdrop
    cases hdrop
  · rw [hk] at hdrop
    cases hdrop
  · obtain rfl : d = c := Fin.ext (hd ▸ hch)
    refine ⟨steal (mapVec (retireNote ch note) s.v), ?_, fun j hj => ?_⟩
    · have hw := startVoice_started s.platform rate r d note vel ref (s.triggerCounter + 1) s.ch[d.val]
        (readVoice s.platform ref) (retireNote ch note s.v[(steal (mapVec (retireNote ch note) s.v)).val])
      dsimp only
      rw [startNote_v, if_pos rfl]
      exact ⟨hw.active, hw.channel, hw.note⟩
    · by_contra hne
      have hsounds := (sounds_iff hch _ note).2 hj
      rw [startNote_v, if_neg (Ne.symm hne), retireNote_silent] at hsounds
      cases hsounds

/-! ## The lock and the command port -/

theorem step_lock_free {s t : State} (hs : s.lock = .free) (h : step s = .next t) : t.lock = .free := by
  obtain ⟨-, rfl⟩ | ⟨f, -, ⟨i, u, -, -, rfl⟩ | ⟨r, -, rfl⟩⟩ := step_cases h
  · exact hs
  · rfl
  · rfl

theorem fetch_eq_admission {s : State} (hlock : s.lock = .free) (hreq : s.request = none) : fetch s = admission s := by
  simp only [fetch, hlock, hreq]

/-- What is admitted is the oldest command of one agent (rule R63). -/
theorem admission_oldest {s : State} {f : Fetched} (h : admission s = some f) :
    (∃ w rest, s.hostQueue = w :: rest ∧ f.code = .command w ∧ f.state.hostQueue = rest ∧
        f.state.audioQueue = s.audioQueue ∧ f.state.lock = .host) ∨
      ∃ w rest, s.audioQueue = w :: rest ∧ f.code = .command w ∧ f.state.audioQueue = rest ∧
        f.state.hostQueue = s.hostQueue ∧ f.state.lock = .audio := by
  unfold admission at h
  split at h
  · cases h
  case h_2 w rest hhost haudio =>
    cases h
    exact .inl ⟨w, rest, hhost, rfl, rfl, rfl, rfl⟩
  case h_3 w rest hhost haudio =>
    cases h
    exact .inr ⟨w, rest, haudio, rfl, rfl, rfl, rfl⟩
  case h_4 w rest u rest' hhost haudio =>
    split at h
    · cases h
      exact .inl ⟨w, rest, hhost, rfl, rfl, rfl, rfl⟩
    · cases h
      exact .inr ⟨u, rest', haudio, rfl, rfl, rfl, rfl⟩

/-- With a command waiting something is admitted (rule R63). -/
theorem admission_some {s : State} (h : s.hostQueue ≠ [] ∨ s.audioQueue ≠ []) : ∃ f, admission s = some f := by
  unfold admission
  split
  case h_1 hhost haudio => simp [hhost, haudio] at h
  · exact ⟨_, rfl⟩
  · exact ⟨_, rfl⟩
  · split
    · exact ⟨_, rfl⟩
    · exact ⟨_, rfl⟩

/-- Settles O7: fetching without a request is admission, and every step that takes a command releases the lock. -/
theorem admissionTakesTheOldestOfOneAgent : Obligations.AdmissionTakesTheOldestOfOneAgent := by
  refine ⟨fun s t => step_lock_free, fun s hreq => ⟨fun f hf => ?_, fun hlock hwait => ?_⟩⟩
  · obtain ⟨hlock, -⟩ := fetch_frame hf
    rw [fetch_eq_admission hlock hreq] at hf
    exact ⟨hlock, admission_oldest hf⟩
  · rw [fetch_eq_admission hlock hreq]
    exact admission_some hwait

/-! ## RESET -/

theorem resetEngine_idem (s : State) : resetEngine (resetEngine s) = resetEngine s := by
  have hslots : (resetEngine s).mapSlots goOff = resetEngine s := by
    refine mapSlots_id fun k => ?_
    rw [resetEngine_v]
    rfl
  rw [resetEngine, hslots]
  rfl

/-- Settles O13: `goOff` is idempotent, and nothing else that RESET writes depends on the old state. -/
theorem resetIsIdempotentAndForgets : Obligations.ResetIsIdempotentAndForgets := by
  constructor
  · intro s t h
    cases h
    exact congrArg Host.Outcome.next (resetEngine_idem s)
  · intro s s' t t' hpf hrate h h'
    cases h
    cases h'
    refine ⟨hrate, rfl, rfl, ?_, fun k => ?_⟩
    · simp only [resetEngine, hpf]
    · rw [resetEngine_v, resetEngine_v]
      exact ⟨rfl, rfl⟩

/-! ## The clipped output -/

theorem renderFrame_clipped (rate : Rat) {s : State} (hfp : s.platform.params.fp = .exact) :
    ∃ l r : List AudioTerm, (renderFrame rate s).2 = ⟨.clip l, .clip r⟩ := by
  have hpf : (sampleTick rate s).platform.params.fp = .exact := by rw [sampleTick_frame, ← hfp]
  rw [renderFrame, mixFrame, hpf]
  exact ⟨_, _, rfl⟩

theorem renderFrames_clipped (rate : Rat) (n : Nat) {s : State} (hfp : s.platform.params.fp = .exact) :
    ∀ f ∈ (renderFrames rate n s).2, ∃ l r : List AudioTerm, f = ⟨.clip l, .clip r⟩ := by
  induction n generalizing s with
  | zero => simp [renderFrames]
  | succ n ih =>
    intro f hf
    obtain rfl | hf := List.mem_cons.1 hf
    · exact renderFrame_clipped rate hfp
    · exact ih (by rw [renderFrame_platform, hfp]) f hf

/-- The frames RENDER adds to the audio port (rules R180, R182). -/
theorem renderState_audio (rate : Rat) (n : Nat) (s : State) :
    (renderState rate n s).audio = s.audio ++ (renderFrames rate n s).2 := by
  have hkept : (renderFrames rate n s).1.audio = s.audio :=
    renderFrames_keeps (P := fun u => u.audio = s.audio) (fun u hu => by rw [renderFrame_frame, ← hu]) n s rfl
  rw [renderState, State.emit_audio, hkept]

theorem clip_range (terms : List AudioTerm) : -1 ≤ (Level.clip terms).toReal ∧ (Level.clip terms).toReal ≤ 1 := by
  rw [Level.toReal]
  exact ⟨le_min (le_max_right _ _) (by norm_num), min_le_right _ _⟩

/-- Settles O56: in exact reals every frame is the master frame of its contributions, a pair of clipped sums. -/
theorem audioIsClipped : Obligations.AudioIsClipped := by
  refine ⟨?_, fun v => Real.cos_sq_add_sin_sq _, fun terms h => ?_⟩
  · intro s t n hfp h f hf
    obtain ⟨rate, -, rfl⟩ := execRender_next h
    rw [renderState_audio, List.drop_left] at hf
    obtain ⟨l, r, rfl⟩ := renderFrames_clipped rate n.toNat hfp f hf
    obtain ⟨hl0, hl1⟩ := clip_range l
    obtain ⟨hr0, hr1⟩ := clip_range r
    exact ⟨⟨l, r, rfl⟩, hl0, hl1, hr0, hr1⟩
  · obtain ⟨hlo, hhi⟩ := abs_le.1 h
    rw [Level.toReal, max_eq_left hlo, min_eq_left hhi]

end Sys2Proof.Machine
end

section
/-! PROOFS. Bank memory: what a byte reads as after a write (rules R50, R64). -/

namespace Sys2Proof.Machine

/-- A byte put before cells that do not list its address; the entry is left out if an unlisted byte reads the same. -/
theorem Memory.read_prepend {a : Nat} {cs : Memory} (hcs : cs.read a = Memory.unlisted) (x : Byte) (b : Nat) :
    Memory.read (if x = Memory.unlisted then cs else (a, x) :: cs) b = if b = a then x else cs.read b := by
  split
  case isTrue hx =>
    split
    case isTrue hb => rw [hb, hcs, hx]
    case isFalse => rfl
  case isFalse => simp only [Memory.read_cons, eq_comm]

theorem Memory.read_write {m : Memory} (hm : m.Pairwise fun c d => c.1 < d.1) (a b : Nat) (x : Byte) :
    (m.write a x).read b = if b = a then x else m.read b := by
  induction m with
  | nil => exact Memory.read_prepend rfl x b
  | cons c cs ih =>
    obtain ⟨hlow, hcs⟩ := List.pairwise_cons.1 hm
    unfold Memory.write
    split
    case isTrue hlt =>
      have habove : ∀ d ∈ c :: cs, a < d.1 := by
        intro d hd
        obtain rfl | hd := List.mem_cons.1 hd
        · exact hlt
        · exact hlt.trans (hlow d hd)
      exact Memory.read_prepend (Memory.read_below _ a habove) x b
    case isFalse hlt =>
      split
      case isTrue heq =>
        rw [Memory.read_prepend (Memory.read_below cs a (heq ▸ hlow)), Memory.read_cons]
        split
        · rfl
        case isFalse hb => rw [if_neg (by omega)]
      case isFalse hne =>
        rw [Memory.read_cons, Memory.read_cons, ih hcs]
        split
        case isTrue hb => rw [if_neg (by omega)]
        case isFalse => rfl

/-- Settles O11: the architect's law says that the form is kept, `Memory.read_write` what is read. -/
theorem memoryWriteSetsOneByte : Obligations.MemoryWriteSetsOneByte :=
  fun m a b x hm => ⟨Memory.wf_write m a x hm, Memory.read_write hm.1 a b x⟩

end Sys2Proof.Machine
end

section
/-! PROOFS. NOTE_ON with a channel or a record that it does not play (rules R54, R57, R59, R161). -/

namespace Sys2Proof.Machine

/-- The kind bytes of the leaves that sound, and of the CGB kinds among them (rules R15, R57). -/
theorem kindOfByte_class (b : Byte) :
    (kindSounds (kindOfByte b) = true ↔ b.toNat ∈ [1, 2, 3, 4, 5]) ∧
      (kindIsCgb (kindOfByte b) = true ↔ b.toNat ∈ [2, 3, 4, 5]) := by
  unfold kindOfByte Kind.ofByte
  generalize b.toNat = n
  match n with
  | 0 | 1 | 2 | 3 | 4 | 5 | 6 | 7 => simp [kindSounds, kindIsCgb]
  | n + 8 => simp [kindSounds, kindIsCgb]

/-- A record inside the bank is a leaf that sounds exactly if its kind byte says so (rules R54, R57). -/
theorem kindSounds_readVoice (pf : Platform) (ref : Word32) :
    kindSounds (readVoice pf ref).kind = true ↔
      ref.toNat + 16 ≤ pf.params.bankSize ∧ (pf.bank.read ref.toNat).toNat ∈ [1, 2, 3, 4, 5] := by
  by_cases hin : ref.toNat + 16 ≤ pf.params.bankSize
  · rw [readVoice_kind hin, (kindOfByte_class _).1, and_iff_right hin]
  · rw [readVoice_outside (not_le.1 hin)]
    exact iff_of_false Bool.false_ne_true fun h => hin h.1

/-- The conditions of rule R59 on a record inside the bank, as conditions on its bytes. -/
theorem wellFormed_readVoice {pf : Platform} {ref : Word32} (hin : ref.toNat + 16 ≤ pf.params.bankSize) :
    (readVoice pf ref).wellFormed = true ↔
      ((pf.bank.read ref.toNat).toNat ∈ [2, 3, 4, 5] → (pf.bank.read (ref.toNat + 6)).toNat ≤ 15) ∧
        (pf.bank.read (ref.toNat + 2)).toNat ≤ 127 ∧ (pf.bank.read (ref.toNat + 1)).toNat ≤ 127 := by
  have hc : pf.contains ref.toNat 16 = true := decide_eq_true hin
  rw [wellFormed_iff, readVoice_kind hin, (kindOfByte_class _).2, readVoice, if_pos hc]

/-- With a rate, NOTE_ON is dropped for a channel that does not exist, or a record that is no leaf (rule R161). -/
theorem execNoteOn_drop {s : State} (hrate : s.sampleRate ≠ none) {ch : Byte} {ref : Word32}
    (h : 15 < ch.toNat ∨ ¬kindSounds (readVoice s.platform ref).kind = true) (r : Bool) (note vel : BitVec 7) :
    execNoteOn r ch note vel ref s = .next s := by
  unfold execNoteOn
  split
  case h_1 hnone => exact absurd hnone hrate
  case h_2 =>
    split
    case h_1 => rfl
    case h_2 c hc =>
      have := channelOf_val hc
      exact if_neg (h.resolve_left (by omega))

/-- With a rate, NOTE_ON on a channel is refused for a leaf outside the ranges of rule R59. -/
theorem execNoteOn_malformed {s : State} (hrate : s.sampleRate ≠ none) {ch : Byte} (hch : ch.toNat ≤ 15)
    {ref : Word32} (hk : kindSounds (readVoice s.platform ref).kind = true) (hwf : ¬(readVoice s.platform ref).wellFormed = true)
    (r : Bool) (note vel : BitVec 7) : execNoteOn r ch note vel ref s = .refused .malformedVoice := by
  unfold execNoteOn
  split
  case h_1 hnone => exact absurd hnone hrate
  case h_2 =>
    rw [channelOf_some (c := ⟨ch.toNat, by omega⟩) rfl]
    exact (if_pos hk).trans (if_neg hwf)

/-- Settles O23: the drop and the refusal of NOTE_ON, with the record's conditions read off its bytes. -/
theorem noteOnTurnsBadRecordsAway : Obligations.NoteOnTurnsBadRecordsAway := by
  intro s r ch note vel ref hrate
  refine ⟨fun hbad => execNoteOn_drop hrate (hbad.imp_right fun hrec hk => ?_) r note vel,
    fun hch hin hkind hbad => execNoteOn_malformed hrate hch ?_ (fun hwf => ?_) r note vel⟩
  · obtain ⟨hin, hkind⟩ := (kindSounds_readVoice s.platform ref).1 hk
    exact hrec.elim (not_lt.2 hin) (absurd hkind)
  · exact (kindSounds_readVoice s.platform ref).2 ⟨hin, hkind⟩
  · obtain ⟨hsustain, hpan, hkey⟩ := (wellFormed_readVoice hin).1 hwf
    obtain ⟨hcgb, hgt⟩ | hgt | hgt := hbad
    · exact absurd (hsustain hcgb) (not_le.2 hgt)
    · exact absurd hpan (not_le.2 hgt)
    · exact absurd hkey (not_le.2 hgt)

end Sys2Proof.Machine
end

section
/-! PROOFS. The sample decoder: what DECODE delivers for a blob, and that the sample of a voice record is that
(rules R60, R82, R91 to R95, R97). -/

namespace Sys2Proof.Machine

theorem blobReadable_iff (pf : Platform) (a len : Nat) :
    blobReadable pf a len = true ↔ 16 ≤ len ∧ a + len ≤ pf.params.bankSize := by
  simp only [blobReadable, Platform.contains, Bool.and_eq_true, decide_eq_true_eq]
  rfl

@[simp] theorem length_payload (m : Memory) (a n : Nat) : (payload m a n).length = n := by simp [payload]

theorem getElem?_payload (m : Memory) {a n i : Nat} (hi : i < n) :
    (payload m a n)[i]? = some (m.read (a + 16 + i)) := by
  simp [payload, sampleHeaderBytes, hi]

/-- The decoder operation that the flags word of the blob selects delivers `DECODE` of the blob (rules R82, R90). -/
theorem exec_decodeFlags (s : State) :
    exec (decodeFlags (blobFlags s.platform.bank s.decAddr.toNat)) s =
      .next (s.withDecResult (decodeSample s.platform s.decAddr.toNat s.decLen.toNat)) := by
  unfold decodeFlags decodeSample
  split
  case isTrue hc => simp only [exec, execDecodeDpcm, hc, if_true]
  case isFalse hc =>
    simp only [exec, execDecodeRaw, hc]
    rfl

/-- A blob that is short or not wholly inside the bank is a load error for both decoders (rule R95). -/
theorem exec_decode_unreadable {s : State} (h : ¬blobReadable s.platform s.decAddr.toNat s.decLen.toNat = true)
    (looped : Bool) :
    exec (.decodeRaw looped) s = .next { s with decResult := none } ∧
      exec (.decodeDpcm looped) s = .next { s with decResult := none } := by
  simp only [exec, execDecodeRaw, execDecodeDpcm, if_neg h]
  exact ⟨rfl, rfl⟩

/-- Settles O48: a record's sample is what the selected decoder delivers, and DECODE.RAW delivers the payload. -/
theorem rawDecoderCopiesThePayload : Obligations.RawDecoderCopiesThePayload := by
  refine ⟨fun s vo => ⟨fun haddr => if_pos haddr, fun haddr => ?_⟩,
    fun s looped => ⟨fun hblob => ?_, fun hblob => ?_⟩⟩
  · have hsample : sampleOfVoice s.platform vo = decodeSample s.platform vo.sampleAddr.toNat vo.sampleLen.toNat :=
      if_neg haddr
    rw [hsample]
    exact exec_decodeFlags { s with decAddr := vo.sampleAddr, decLen := vo.sampleLen }
  · have hread := (blobReadable_iff s.platform s.decAddr.toNat s.decLen.toNat).2 hblob
    refine ⟨payload s.platform.bank s.decAddr.toNat _, length_payload _ _ _, fun i hi => getElem?_payload _ hi, ?_⟩
    simp only [exec, execDecodeRaw, if_pos hread, decodeRawBlob, sampleOf, length_payload]
    rfl
  · exact exec_decode_unreadable (mt (blobReadable_iff _ _ _).1 hblob) looped

end Sys2Proof.Machine
end

section
/-! PROOFS. Words the spec writes out (rules R70, R72, R82), and the step that runs the operation it decodes (rules R62,
R63, R81, R100). -/

namespace Sys2Proof.Machine

/-! ## Flags words -/

/-- Of a flags word only bits 0 and 30 are read (rule R82). -/
theorem decodeFlags_congr {f g : Word32} (hcompressed : f.getLsbD 0 = g.getLsbD 0)
    (hlooped : f.getLsbD 30 = g.getLsbD 30) : decodeFlags f = decodeFlags g := by
  unfold decodeFlags flagsCompressed flagsLooped
  rw [hcompressed, hlooped]

theorem decodeFlags_mask (f : Word32) : decodeFlags (f &&& 0x40000001#32) = decodeFlags f :=
  decodeFlags_congr (by simp) (by simp)

/-- Settles O4: fifteen closed decodings, and the law of the two bits of a flags word. -/
theorem specWordsDecode : Obligations.SpecWordsDecode := by
  refine ⟨?_, ?_, ?_, ?_, ?_, ?_, ?_, ?_, ?_, ?_, ?_, ?_, ?_, ?_, ?_,
    fun f => ⟨rfl, congrArg Except.ok (decodeFlags_mask f)⟩⟩
  all_goals decide

/-! ## The step -/

/-- A step that fetches a code of an operation runs that operation to its end (rules R81, R100). -/
theorem step_of_decode {s : State} {f : Fetched} {i : Instr} (hf : fetch s = some f) (hi : decode f.code = .ok i) :
    step s = finish (exec i f.state) := by
  simp only [step, hf, runCode, hi]

theorem step_of_fetch_none {s : State} (hf : fetch s = none) : step s = .next s := by simp only [step, hf]

theorem fetch_decode {s : State} (hlock : s.lock = .free) (hreq : s.request = some .decode) :
    fetch s = some (takeFlags s) := by
  simp only [fetch, hlock, hreq]

theorem fetch_generator {s : State} (hlock : s.lock = .free) (hreq : s.request = some .generator) :
    fetch s = some (takeKind s) := by
  simp only [fetch, hlock, hreq]

/-- The kind byte of a record wholly inside the bank (rules R54, R57). -/
theorem takeKind_inside {s : State} (h : (s.v[s.genSlot.val]).voiceRef.toNat + 16 ≤ s.platform.params.bankSize) :
    takeKind s =
      ⟨.kind (s.platform.bank.read (s.v[s.genSlot.val]).voiceRef.toNat), { s with request := none }⟩ := by
  have hc : s.platform.contains (s.v[s.genSlot.val]).voiceRef.toNat 16 = true := decide_eq_true h
  simp only [takeKind, hc, if_true]

theorem admission_host {s : State} {w : Word64} {rest : List Word64} (hhost : s.hostQueue = w :: rest)
    (haudio : s.audioQueue = []) : admission s = some (takeHost w rest s) := by
  simp only [admission, hhost, haudio]

theorem admission_audio {s : State} {w : Word64} {rest : List Word64} (hhost : s.hostQueue = [])
    (haudio : s.audioQueue = w :: rest) : admission s = some (takeAudio w rest s) := by
  simp only [admission, hhost, haudio]

theorem finish_next_iff (s t : State) : finish (.next s) = .next t ↔ t = { s with lock := .free } := by
  simp only [finish, Host.Outcome.next.injEq]
  exact eq_comm

/-- Settles O5: a step in terms of `fetch`, and `fetch` in the cases in which the state fixes the code. -/
theorem stepRunsTheDecodedOperation : Obligations.StepRunsTheDecodedOperation :=
  ⟨fun _ _ _ => step_of_decode,
    fun _ _ _ hlock hreq hhost haudio => (fetch_eq_admission hlock hreq).trans (admission_host hhost haudio),
    fun _ _ _ hlock hreq hhost haudio => (fetch_eq_admission hlock hreq).trans (admission_audio hhost haudio),
    fun _ => fetch_decode,
    fun _ hlock hreq hin => (fetch_generator hlock hreq).trans (congrArg some (takeKind_inside hin)),
    fun _ => step_of_fetch_none,
    finish_next_iff⟩

end Sys2Proof.Machine
end

section
/-! PROOFS. The command words that decode (rules R70 to R72, R78 to R81): the formats of rule R72 as words with their
instructions, the masks that these words meet, and the step that drops any other word. -/

namespace Sys2Proof

/-! ## Formats -/

/-- The formats of rule R72: the command words with every reserved and every dead field zero, and what each stands for. -/
inductive CommandFormat : Word64 → Instr → Prop
  | reset : CommandFormat (commandWord 1 0 0 0 0 0) .reset
  | setRate (w : Word32) : CommandFormat (commandWord 2 0 0 0 0 w) (.setRate w)
  | noteOn (isRhythm : Bool) (ch : Byte) (note velocity : BitVec 7) (ref : Word32) :
      CommandFormat (commandWord 3 (boolBit isRhythm) ch note velocity ref) (.noteOn isRhythm ch note velocity ref)
  | noteOff (ch : Byte) (note : BitVec 7) : CommandFormat (commandWord 4 0 ch note 0 0) (.noteOff ch note)
  | allOff (ch : Byte) : CommandFormat (commandWord 5 0 ch 0 0 0) (.allOff ch)
  | controlChange (ch : Byte) (controller value : BitVec 7) :
      CommandFormat (ccWord controller ch value) (ccInstr ch controller value)
  | pbend (ch : Byte) (bend : BitVec 16) : CommandFormat (commandWord 7 0 ch 0 0 (0#16 ++ bend)) (.pbend ch bend)
  | render (n : Word32) : CommandFormat (commandWord 8 0 0 0 0 n) (.render n)

/-- The rhythm bit is the bit of the flag it is read as (rule R78). -/
@[simp] theorem boolBit_decide_eq_one (r : BitVec 1) : boolBit (r = 1) = r := by
  revert r
  decide

theorem extractHigh_zero_append (bend : BitVec 16) : (0#16 ++ bend).extractLsb' 16 16 = 0 :=
  BitVec.extractLsb'_append_eq_left

theorem extractLow_zero_append (bend : BitVec 16) : (0#16 ++ bend).extractLsb' 0 16 = bend :=
  (BitVec.extractLsb'_append_eq_of_add_le (Nat.le_refl 16)).trans BitVec.extractLsb'_eq_self

/-- A word with its upper half zero is its lower half (rule R72: the word of PBEND). -/
theorem zero_append_extractLow {w : Word32} (h : w.extractLsb' 16 16 = 0) : 0#16 ++ w.extractLsb' 0 16 = w := by
  rw [← show w.extractLsb' 16 16 = 0#16 from h]
  exact BitVec.extractLsb'_append_extractLsb' (w := 16) (len := 16)

theorem liveOnly_eq_ok {deadZero : Bool} {i j : Instr} : liveOnly deadZero i = .ok j ↔ deadZero = true ∧ i = j := by
  cases deadZero <;> simp [liveOnly]

/-- Fields that decode are those of a format: `op` selects it, and its dead fields are zero (rules R72, R81). -/
theorem commandFormat_of_decodeFields {op : BitVec 4} {r : BitVec 1} {ch : Byte} {a b : BitVec 7} {w : Word32}
    {i : Instr} (h : decodeFields ⟨op, 0, r, ch, 0, a, 0, b, w⟩ = .ok i) : CommandFormat (commandWord op r ch a b w) i := by
  unfold decodeFields at h
  split at h
  case h_9 => cases h
  all_goals simp only [liveOnly_eq_ok, Bool.and_eq_true, decide_eq_true_eq, and_assoc, true_and] at h
  case h_1 hop =>
    obtain rfl : op = 1 := BitVec.eq_of_toNat_eq hop
    obtain ⟨rfl, rfl, rfl, rfl, rfl, rfl⟩ := h
    exact .reset
  case h_2 hop =>
    obtain rfl : op = 2 := BitVec.eq_of_toNat_eq hop
    obtain ⟨rfl, rfl, rfl, rfl, rfl⟩ := h
    exact .setRate w
  case h_3 hop =>
    obtain rfl : op = 3 := BitVec.eq_of_toNat_eq hop
    obtain rfl := h
    simpa only [boolBit_decide_eq_one] using CommandFormat.noteOn (r = 1) ch a b w
  case h_4 hop =>
    obtain rfl : op = 4 := BitVec.eq_of_toNat_eq hop
    obtain ⟨rfl, rfl, rfl, rfl⟩ := h
    exact .noteOff ch a
  case h_5 hop =>
    obtain rfl : op = 5 := BitVec.eq_of_toNat_eq hop
    obtain ⟨rfl, rfl, rfl, rfl, rfl⟩ := h
    exact .allOff ch
  case h_6 hop =>
    obtain rfl : op = 6 := BitVec.eq_of_toNat_eq hop
    obtain ⟨rfl, rfl, rfl⟩ := h
    exact .controlChange ch a b
  case h_7 hop =>
    obtain rfl : op = 7 := BitVec.eq_of_toNat_eq hop
    obtain ⟨rfl, rfl, rfl, hw, rfl⟩ := h
    simpa only [zero_append_extractLow hw] using CommandFormat.pbend ch (w.extractLsb' 0 16)
  case h_8 hop =>
    obtain rfl : op = 8 := BitVec.eq_of_toNat_eq hop
    obtain ⟨rfl, rfl, rfl, rfl, rfl⟩ := h
    exact .render w

theorem joinWord_eq_commandWord {f : Fields} (hA : f.rsvA = 0) (hB : f.rsvB = 0) (hC : f.rsvC = 0) :
    joinWord f = commandWord f.op f.r f.ch f.a f.b f.w := by
  obtain ⟨op, rsvA, r, ch, rsvB, a, rsvC, b, w⟩ := f
  obtain rfl : rsvA = 0 := hA
  obtain rfl : rsvB = 0 := hB
  obtain rfl : rsvC = 0 := hC
  rfl

/-- A word is made of its live fields when its reserved fields are zero (rule R70). -/
theorem eq_commandWord_of_reserved {c : Word64} (hA : (splitWord c).rsvA = 0) (hB : (splitWord c).rsvB = 0)
    (hC : (splitWord c).rsvC = 0) :
    c = commandWord (splitWord c).op (splitWord c).r (splitWord c).ch (splitWord c).a (splitWord c).b (splitWord c).w :=
  (joinWord_splitWord c).symm.trans (joinWord_eq_commandWord hA hB hC)

/-- A word with a reserved bit set does not decode (rule R81). -/
theorem reserved_zero_of_decodeCommand {c : Word64} {i : Instr} (h : decodeCommand c = .ok i) :
    (splitWord c).rsvA = 0 ∧ (splitWord c).rsvB = 0 ∧ (splitWord c).rsvC = 0 := by
  by_contra hne
  simp only [decodeCommand, hne, if_false] at h
  cases h

/-- A word decodes to an instruction exactly when the two stand in a row of rule R72. -/
theorem decodeCommand_eq_ok_iff {c : Word64} {i : Instr} : decodeCommand c = .ok i ↔ CommandFormat c i := by
  constructor
  · intro h
    obtain ⟨hA, hB, hC⟩ := reserved_zero_of_decodeCommand h
    have hc := eq_commandWord_of_reserved hA hB hC
    rw [hc, decodeCommand_commandWord] at h
    rw [hc]
    exact commandFormat_of_decodeFields h
  · intro h
    cases h with
    | noteOn isRhythm ch note velocity ref => cases isRhythm <;> exact decodeCommand_commandWord ..
    | pbend ch bend =>
      rw [decodeCommand_commandWord]
      simp only [decodeFields, extractHigh_zero_append, extractLow_zero_append]
      rfl
    | reset => exact decodeCommand_commandWord ..
    | setRate w => exact decodeCommand_commandWord ..
    | noteOff ch note => exact decodeCommand_commandWord ..
    | allOff ch => exact decodeCommand_commandWord ..
    | controlChange ch controller value => exact decodeCommand_commandWord ..
    | render n => exact decodeCommand_commandWord ..

/-! ## Control changes -/

/-- The encoding of a control change is the word of its controller number, named or not (rules R79, R108). -/
theorem encode_ccInstr (ch : Byte) (controller value : BitVec 7) :
    encode (ccInstr ch controller value) = .command (ccWord controller ch value) ∧
      (ccInstr ch controller value).wellFormed = true := by
  cases hnamed : namedControllers.contains controller with
  | false =>
    rw [ccInstr_unnamed ch controller value hnamed]
    exact ⟨rfl, by simp only [Instr.wellFormed, hnamed, Bool.not_false]⟩
  | true =>
    simp only [namedControllers, List.contains_iff_mem, List.mem_cons, List.not_mem_nil, or_false] at hnamed
    rcases hnamed with rfl | rfl | rfl | rfl | rfl | rfl | rfl | rfl | rfl | rfl | rfl <;> exact ⟨rfl, rfl⟩

/-! ## Decoding and encoding -/

/-- The encoding of a format's instruction is the format's word. -/
theorem CommandFormat.encode_eq {c : Word64} {i : Instr} (h : CommandFormat c i) :
    encode i = .command c ∧ i.wellFormed = true := by
  cases h with
  | controlChange ch controller value => exact encode_ccInstr ch controller value
  | reset => exact ⟨rfl, rfl⟩
  | setRate w => exact ⟨rfl, rfl⟩
  | noteOn isRhythm ch note velocity ref => exact ⟨rfl, rfl⟩
  | noteOff ch note => exact ⟨rfl, rfl⟩
  | allOff ch => exact ⟨rfl, rfl⟩
  | pbend ch bend => exact ⟨rfl, rfl⟩
  | render n => exact ⟨rfl, rfl⟩

/-- Settles O2: the instruction stands in a row of rule R72, and the row fixes the word. -/
theorem acceptedWordIsTheEncoding : Obligations.AcceptedWordIsTheEncoding :=
  fun _ _ h => (decodeCommand_eq_ok_iff.1 h).encode_eq

theorem CommandFormat.decode_eq {c : Word64} {i : Instr} (h : CommandFormat c i) : decode (.command c) = .ok i :=
  decodeCommand_eq_ok_iff.2 h

/-- The decoder selected by a flags word is the one that the word was made for (rule R82). -/
theorem decodeFlags_flagsWord (compressed looped : Bool) :
    decodeFlags (flagsWord compressed looped) = if compressed then .decodeDpcm looped else .decodeRaw looped := by
  obtain ⟨hcompressed, hlooped⟩ := flagsWord_bits compressed looped
  rw [decodeFlags, hcompressed, hlooped]

/-- Settles O1: a command's encoding stands in a row of rule R72, where a control change stands by its number; a flags word
has its two bits, and the eight kind bytes are evaluated. -/
theorem decodeOfEncodeIsTheInstruction : Obligations.DecodeOfEncodeIsTheInstruction := by
  intro i hwf
  cases i with
  | reset => exact CommandFormat.reset.decode_eq
  | setRate w => exact (CommandFormat.setRate w).decode_eq
  | noteOn isRhythm ch note velocity ref => exact (CommandFormat.noteOn isRhythm ch note velocity ref).decode_eq
  | noteOff ch note => exact (CommandFormat.noteOff ch note).decode_eq
  | allOff ch => exact (CommandFormat.allOff ch).decode_eq
  | ccMod ch value => exact (CommandFormat.controlChange ch 1 value).decode_eq
  | ccBendr ch value => exact (CommandFormat.controlChange ch 6 value).decode_eq
  | ccVol ch value => exact (CommandFormat.controlChange ch 7 value).decode_eq
  | ccPan ch value => exact (CommandFormat.controlChange ch 10 value).decode_eq
  | ccLfos ch value => exact (CommandFormat.controlChange ch 21 value).decode_eq
  | ccModt ch value => exact (CommandFormat.controlChange ch 22 value).decode_eq
  | ccTune ch value => exact (CommandFormat.controlChange ch 24 value).decode_eq
  | ccLfodl ch value => exact (CommandFormat.controlChange ch 26 value).decode_eq
  | ccXcmd ch value => exact (CommandFormat.controlChange ch 29 value).decode_eq
  | ccXcmdtype ch value => exact (CommandFormat.controlChange ch 30 value).decode_eq
  | ccAlloff ch value => exact (CommandFormat.controlChange ch 123 value).decode_eq
  | ccOther ch controller value =>
    have hunnamed : namedControllers.contains controller = false := by
      simpa only [Instr.wellFormed, Bool.not_eq_true'] using hwf
    have hformat := CommandFormat.controlChange ch controller value
    rw [ccInstr_unnamed ch controller value hunnamed] at hformat
    exact hformat.decode_eq
  | pbend ch bend => exact (CommandFormat.pbend ch bend).decode_eq
  | render n => exact (CommandFormat.render n).decode_eq
  | decodeRaw looped => exact congrArg Except.ok (decodeFlags_flagsWord false looped)
  | decodeDpcm looped => exact congrArg Except.ok (decodeFlags_flagsWord true looped)
  | voiceEmpty => rfl
  | voiceDirectsound => rfl
  | voiceSquare1 => rfl
  | voiceSquare2 => rfl
  | voiceProgwave => rfl
  | voiceNoise => rfl
  | voiceKeysplit => rfl
  | voiceKeysplitall => rfl

/-! ## Masks -/

/-- The fields of the bitwise and of two words. -/
theorem splitWord_and (c d : Word64) :
    splitWord (c &&& d) =
      let f := splitWord c
      let g := splitWord d
      ⟨f.op &&& g.op, f.rsvA &&& g.rsvA, f.r &&& g.r, f.ch &&& g.ch, f.rsvB &&& g.rsvB, f.a &&& g.a, f.rsvC &&& g.rsvC,
        f.b &&& g.b, f.w &&& g.w⟩ := by
  simp only [splitWord, BitVec.extractLsb'_and]

theorem splitWord_injective : Function.Injective splitWord :=
  Function.LeftInverse.injective joinWord_splitWord

/-- The mask of a format: `op` and the reserved fields in full, and the given bits of the other fields (rule R72). -/
def formatMask (r : BitVec 1) (ch : Byte) (a b : BitVec 7) (w : Word32) : Word64 :=
  joinWord ⟨.allOnes 4, .allOnes 3, r, ch, .allOnes 1, a, .allOnes 1, b, w⟩

/-- The words that meet the mask of a format: `op` is the format's, and the masked bits are zero (rule R72). -/
theorem and_formatMask_eq_iff (c : Word64) (op : BitVec 4) (mr : BitVec 1) (mch : Byte) (ma mb : BitVec 7)
    (mw : Word32) :
    c &&& formatMask mr mch ma mb mw = commandWord op 0 0 0 0 0 ↔
      ∃ r, r &&& mr = 0 ∧ ∃ ch, ch &&& mch = 0 ∧ ∃ a, a &&& ma = 0 ∧ ∃ b, b &&& mb = 0 ∧ ∃ w, w &&& mw = 0 ∧
        c = commandWord op r ch a b w := by
  rw [← splitWord_injective.eq_iff, splitWord_and]
  simp only [formatMask, commandWord, splitWord_joinWord, Fields.mk.injEq, BitVec.and_allOnes]
  constructor
  · rintro ⟨rfl, hA, hr, hch, hB, ha, hC, hb, hw⟩
    exact ⟨_, hr, _, hch, _, ha, _, hb, _, hw, eq_commandWord_of_reserved hA hB hC⟩
  · rintro ⟨r, hr, ch, hch, a, ha, b, hb, w, hw, rfl⟩
    simp only [splitWord_joinWord]
    exact ⟨trivial, trivial, hr, hch, trivial, ha, trivial, hb, hw⟩

/-- A word with no bit of its upper half set is a half word (rule R72: the operand of PBEND). -/
theorem and_upperHalf_eq_zero_iff (w : Word32) :
    w &&& 0xFFFF0000#32 = 0#32 ↔ ∃ bend : BitVec 16, 0#16 ++ bend = w := by
  constructor
  · intro h
    have hhigh := congrArg (BitVec.extractLsb' 16 16) h
    rw [BitVec.extractLsb'_and, show (0xFFFF0000#32).extractLsb' 16 16 = BitVec.allOnes 16 from rfl,
      BitVec.and_allOnes] at hhigh
    exact ⟨_, zero_append_extractLow hhigh⟩
  · rintro ⟨bend, rfl⟩
    rw [show 0xFFFF0000#32 = BitVec.allOnes 16 ++ 0#16 from rfl, BitVec.and_append, BitVec.and_zero, BitVec.zero_and]
    rfl

/-! The mask and match pairs of rule R72, one lemma each: the words that meet a pair are those of its format. -/

theorem meets_reset_iff (c : Word64) :
    c &&& 0xFFFFFFFFFFFFFFFF#64 = 0x1000000000000000#64 ↔ c = commandWord 1 0 0 0 0 0 :=
  (and_formatMask_eq_iff c 1 (.allOnes 1) (.allOnes 8) (.allOnes 7) (.allOnes 7) (.allOnes 32)).trans
    (by simp only [BitVec.and_allOnes, exists_eq_left])

theorem meets_setRate_iff (c : Word64) :
    c &&& 0xFFFFFFFF00000000#64 = 0x2000000000000000#64 ↔ ∃ w, c = commandWord 2 0 0 0 0 w :=
  (and_formatMask_eq_iff c 2 (.allOnes 1) (.allOnes 8) (.allOnes 7) (.allOnes 7) 0#32).trans
    (by simp only [BitVec.and_allOnes, exists_eq_left, BitVec.and_zero, BitVec.ofNat_eq_ofNat, true_and])

theorem meets_noteOn_iff (c : Word64) :
    c &&& 0xFE00808000000000#64 = 0x3000000000000000#64 ↔ ∃ r ch a b w, c = commandWord 3 r ch a b w :=
  (and_formatMask_eq_iff c 3 0#1 0#8 0#7 0#7 0#32).trans
    (by simp only [BitVec.and_zero, BitVec.ofNat_eq_ofNat, true_and])

theorem meets_noteOff_iff (c : Word64) :
    c &&& 0xFF0080FFFFFFFFFF#64 = 0x4000000000000000#64 ↔ ∃ ch a, c = commandWord 4 0 ch a 0 0 :=
  (and_formatMask_eq_iff c 4 (.allOnes 1) 0#8 0#7 (.allOnes 7) (.allOnes 32)).trans
    (by simp only [BitVec.and_allOnes, exists_eq_left, BitVec.and_zero, BitVec.ofNat_eq_ofNat, true_and])

theorem meets_allOff_iff (c : Word64) :
    c &&& 0xFF00FFFFFFFFFFFF#64 = 0x5000000000000000#64 ↔ ∃ ch, c = commandWord 5 0 ch 0 0 0 :=
  (and_formatMask_eq_iff c 5 (.allOnes 1) 0#8 (.allOnes 7) (.allOnes 7) (.allOnes 32)).trans
    (by simp only [BitVec.and_allOnes, exists_eq_left, BitVec.and_zero, BitVec.ofNat_eq_ofNat, true_and])

theorem meets_controlChange_iff (c : Word64) :
    c &&& 0xFF008080FFFFFFFF#64 = 0x6000000000000000#64 ↔ ∃ ch a b, c = ccWord a ch b :=
  (and_formatMask_eq_iff c 6 (.allOnes 1) 0#8 0#7 0#7 (.allOnes 32)).trans
    (by simp only [BitVec.and_allOnes, exists_eq_left, BitVec.and_zero, BitVec.ofNat_eq_ofNat, true_and, ccWord])

theorem meets_pbend_iff (c : Word64) :
    c &&& 0xFF00FFFFFFFF0000#64 = 0x7000000000000000#64 ↔
      ∃ ch, ∃ bend : BitVec 16, c = commandWord 7 0 ch 0 0 (0#16 ++ bend) :=
  (and_formatMask_eq_iff c 7 (.allOnes 1) 0#8 (.allOnes 7) (.allOnes 7) 0xFFFF0000#32).trans
    (by simp only [BitVec.and_allOnes, BitVec.and_zero, BitVec.ofNat_eq_ofNat, exists_eq_left, true_and,
      and_upperHalf_eq_zero_iff, exists_exists_eq_and])

theorem meets_render_iff (c : Word64) :
    c &&& 0xFFFFFFFF00000000#64 = 0x8000000000000000#64 ↔ ∃ n, c = commandWord 8 0 0 0 0 n :=
  (and_formatMask_eq_iff c 8 (.allOnes 1) (.allOnes 8) (.allOnes 7) (.allOnes 7) 0#32).trans
    (by simp only [BitVec.and_allOnes, exists_eq_left, BitVec.and_zero, BitVec.ofNat_eq_ofNat, true_and])

/-- Settles O3: each mask and match pair is met by the words of one format of rule R72. -/
theorem decoderAcceptsByMaskAndMatch : Obligations.DecoderAcceptsByMaskAndMatch := by
  intro c
  simp only [decodeCommand_eq_ok_iff, meets_reset_iff, meets_setRate_iff, meets_noteOn_iff, meets_noteOff_iff,
    meets_allOff_iff, meets_controlChange_iff, meets_pbend_iff, meets_render_iff]
  constructor
  · rintro ⟨i, h⟩
    cases h with
    | reset => exact .inl rfl
    | setRate w => exact .inr (.inl ⟨w, rfl⟩)
    | noteOn isRhythm ch note velocity ref =>
      exact .inr (.inr (.inl ⟨boolBit isRhythm, ch, note, velocity, ref, rfl⟩))
    | noteOff ch note => exact .inr (.inr (.inr (.inl ⟨ch, note, rfl⟩)))
    | allOff ch => exact .inr (.inr (.inr (.inr (.inl ⟨ch, rfl⟩))))
    | controlChange ch controller value =>
      exact .inr (.inr (.inr (.inr (.inr (.inl ⟨ch, controller, value, rfl⟩)))))
    | pbend ch bend => exact .inr (.inr (.inr (.inr (.inr (.inr (.inl ⟨ch, bend, rfl⟩))))))
    | render n => exact .inr (.inr (.inr (.inr (.inr (.inr (.inr ⟨n, rfl⟩))))))
  · rintro (rfl | ⟨w, rfl⟩ | ⟨r, ch, a, b, w, rfl⟩ | ⟨ch, a, rfl⟩ | ⟨ch, rfl⟩ | ⟨ch, a, b, rfl⟩ |
      ⟨ch, bend, rfl⟩ | ⟨n, rfl⟩)
    · exact ⟨_, .reset⟩
    · exact ⟨_, .setRate w⟩
    · rw [← boolBit_decide_eq_one r]
      exact ⟨_, .noteOn (r = 1) ch a b w⟩
    · exact ⟨_, .noteOff ch a⟩
    · exact ⟨_, .allOff ch⟩
    · exact ⟨_, .controlChange ch a b⟩
    · exact ⟨_, .pbend ch bend⟩
    · exact ⟨_, .render n⟩

/-! ## Dropped words -/

namespace Machine

/-- A step that fetches a code of no operation takes it and releases the lock (rules R80, R81). -/
theorem step_of_reject {s : State} {f : Fetched} {r : Reject} (hf : fetch s = some f) (hr : decode f.code = .error r) :
    step s = .next (releaseLock f.state) := by
  simp only [step, hf, runCode, hr]
  rfl

/-- A lock taken for a command and released is free as before. -/
theorem releaseLock_takeHost {s : State} (hlock : s.lock = .free) (w : Word64) (rest : List Word64) :
    releaseLock (takeHost w rest s).state = { s with hostQueue := rest } := by
  simp only [releaseLock, takeHost, ← hlock]

theorem releaseLock_takeAudio {s : State} (hlock : s.lock = .free) (w : Word64) (rest : List Word64) :
    releaseLock (takeAudio w rest s).state = { s with audioQueue := rest } := by
  simp only [releaseLock, takeAudio, ← hlock]

/-- Settles O6: admission takes the word and the lock, the word is rejected, and the lock is released. -/
theorem reservedWordIsDropped : Obligations.ReservedWordIsDropped := by
  intro s w rest r hlock hreq hreject
  refine ⟨fun hhost haudio => ?_, fun hhost haudio => ?_⟩
  · have hfetch := (fetch_eq_admission hlock hreq).trans (admission_host hhost haudio)
    rw [step_of_reject hfetch hreject, releaseLock_takeHost hlock]
  · have hfetch := (fetch_eq_admission hlock hreq).trans (admission_audio hhost haudio)
    rw [step_of_reject hfetch hreject, releaseLock_takeAudio hlock]

end Machine

end Sys2Proof
end

section
/-! PROOFS. The delta decoder: an entry of its result is the wrapped sum of the deltas up to it, because wrapping the
accumulator after every step cannot be told from wrapping once at the end (rule R94). -/

namespace Sys2Proof.Machine

/-- Nibble `k` of the bytes `f 0, f 1, …`, the low one of a byte first (rule R94). -/
def nibbleAt (f : Nat → Byte) (k : Nat) : Nat :=
  if k % 2 = 0 then (f (k / 2)).toNat % 16 else (f (k / 2)).toNat / 16

/-- The sum of the deltas of nibbles `0..k`, not wrapped. -/
def deltaSum (f : Nat → Byte) (k : Nat) : Int :=
  ((List.range (k + 1)).map fun j => deltaTable.getD (nibbleAt f j) 0).sum

theorem nibbleAt_add_two (f : Nat → Byte) (k : Nat) : nibbleAt f (k + 2) = nibbleAt (fun i => f (i + 1)) k := by
  simp only [nibbleAt, Nat.add_mod_right, Nat.add_div_right k two_pos]

theorem deltaSum_zero (f : Nat → Byte) : deltaSum f 0 = deltaTable.getD ((f 0).toNat % 16) 0 := by
  simp [deltaSum, nibbleAt]

theorem deltaSum_one (f : Nat → Byte) :
    deltaSum f 1 = deltaTable.getD ((f 0).toNat % 16) 0 + deltaTable.getD ((f 0).toNat / 16) 0 := by
  simp [deltaSum, nibbleAt, List.range_succ]

/-- The first byte's two deltas stand before those of the bytes that follow. -/
theorem deltaSum_add_two (f : Nat → Byte) (k : Nat) :
    deltaSum f (k + 2) = deltaTable.getD ((f 0).toNat % 16) 0 + deltaTable.getD ((f 0).toNat / 16) 0 +
      deltaSum (fun i => f (i + 1)) k := by
  simp only [deltaSum, ← nibbleAt_add_two]
  rw [List.sum_range_succ', List.sum_range_succ', ← add_assoc]
  rfl

theorem i8_toInt_add (x y : Int) : i8 ((i8 x).toInt + y) = i8 (x + y) := by
  simp only [i8, BitVec.ofInt_add, BitVec.ofInt_toInt]

/-- The accumulator after both nibbles of a byte: one wrap of the two deltas. -/
theorem deltaStep_deltaStep (acc : Byte) (lo hi : Nat) :
    deltaStep (deltaStep acc lo) hi = i8 (acc.toInt + (deltaTable.getD lo 0 + deltaTable.getD hi 0)) := by
  rw [deltaStep, deltaStep, i8_toInt_add, add_assoc]

theorem length_deltaDecode (acc : Byte) (bs : List Byte) : (deltaDecode acc bs).length = 2 * bs.length := by
  induction bs generalizing acc with
  | nil => rfl
  | cons b bs ih => rw [deltaDecode, List.length_cons, List.length_cons, ih, List.length_cons]; omega

/-- Entry `k` of the delta decoder, by induction on the bytes, two entries at a time. -/
theorem getElem?_deltaDecode (f : Nat → Byte) (n : Nat) (acc : Byte) {k : Nat} (hk : k < 2 * n) :
    (deltaDecode acc ((List.range n).map f))[k]? = some (i8 (acc.toInt + deltaSum f k)) := by
  induction n generalizing f acc k with
  | zero => omega
  | succ n ih =>
    rw [List.range_succ_eq_map, List.map_cons, List.map_map, deltaDecode]
    match k with
    | 0 => rw [deltaSum_zero]; rfl
    | 1 => rw [deltaSum_one, ← deltaStep_deltaStep]; rfl
    | k + 2 =>
      refine (ih (fun i => f (i + 1)) _ (by omega)).trans (congrArg some ?_)
      rw [deltaStep_deltaStep, i8_toInt_add, deltaSum_add_two, add_assoc]

/-- Settles O49: the payload's bytes through the delta decoder, from the accumulator 0. -/
theorem deltaDecoderSumsTheDeltas : Obligations.DeltaDecoderSumsTheDeltas := by
  intro s looped a len rate1024 nibble hblob
  have hread := (blobReadable_iff s.platform a len).2 hblob
  have hlength : (deltaDecode 0 (payload s.platform.bank a (len - 16))).length = 2 * (len - 16) := by
    rw [length_deltaDecode, length_payload]
  refine ⟨deltaDecode 0 (payload s.platform.bank a (len - 16)), hlength, fun k hk => ?_, ?_⟩
  · have hentry := getElem?_deltaDecode (fun i => s.platform.bank.read (a + 16 + i)) (len - 16) 0#8 hk
    rw [BitVec.toInt_zero, zero_add] at hentry
    exact hentry
  · have hsample : decodeDpcmBlob s.platform.bank a len looped =
        Sample.mk (if rate1024 = 0 then 8000 else rate1024 / 1024) (s.platform.bank.read32 (a + 8)) (2 * (len - 16))
          looped true (deltaDecode 0 (payload s.platform.bank a (len - 16))) := by
      rw [← hlength]
      rfl
    rw [← hsample]
    exact congrArg (fun r => Host.Outcome.next (s.withDecResult r)) (if_pos hread)

end Sys2Proof.Machine
end

section
/-! PROOFS. PBEND (rules R106, R240 to R249): what it makes of a slot, kind by kind in exact reals, and that a bend back to
0 gives a square voice the step of NOTE_ON (scenario S4). -/

namespace Sys2Proof.Machine

/-! ## Steps in exact reals -/

theorem squareHz_exact (reg : Int) :
    squareHz .exact reg = if reg < 2048 then 131072 / (2048 - (reg : Rat)) else 131072 := by
  simp only [squareHz, Fp.divQ_exact, squareClock, sub_pos]
  push_cast
  rfl

theorem waveHz_exact (reg : Int) :
    waveHz .exact reg = if reg < 2048 then 65536 / (2048 - (reg : Rat)) else 65536 := by
  simp only [waveHz, Fp.divQ_exact, waveClock, sub_pos]
  push_cast
  rfl

theorem intSemi_exact (total : Rat) : intSemi .exact total = ⌊total / 256⌋ := rfl

/-- The offset splits into semitones, which move the key, and 1/256 semitones (rules R242, R244). -/
theorem cgbReg_exact {p : Params} (hp : p.fp = .exact) (key : Int) (total : Rat) :
    cgbReg p key total =
      midiToCgbReg p (key + ⌊total / 256⌋) ⌊total - 256 * ((⌊total / 256⌋ : Int) : Rat)⌋ := by
  have hfine : fineOf .exact total = ⌊total - 256 * ((⌊total / 256⌋ : Int) : Rat)⌋ := by
    simp only [fineOf, intSemi_exact, Int.cast_mul, Int.cast_ofNat, mul_comm]
    rfl
  rw [cgbReg, hp, hfine, intSemi_exact]

/-- With no offset the square step is that of the key's own register (rules R169, R244). -/
theorem squareInc_exact_zero {p : Params} (hp : p.fp = .exact) (rate : Rat) (key : Int) :
    squareInc p rate key 0 = squareHz .exact (midiToCgbReg p key 0) / rate := by
  simp [squareInc, cgbReg_exact hp, hp]

/-- The step of a DirectSound voice as a real number, whatever the rate (rule R243). -/
theorem dsStep_toReal {p : Params} (hp : p.fp = .exact) (hr : p.refHz ≠ 0) (rate : Rat) (vo : Voice) (smp : Sample)
    (key : Int) (total : Rat) :
    (dsStep p rate vo (some smp) key total).toReal =
      (2 : ℝ) ^ (((key : ℝ) - (vo.baseMidiKey.toNat : ℝ)) / 12 + (total : ℝ) / 3072) * (smp.sampleRateHz : ℝ) / (rate : ℝ) := by
  rw [dsStep_exact hp hr, Pow2Sum.monomial_toReal]
  push_cast
  ring

/-- The total offset as rule R241 writes it. -/
theorem totalOffset_exact (m : ModState) (pitchBend : Rat) :
    totalOffset .exact m pitchBend =
      pitchBend * 256 + (m.fineTune.toInt : Rat) * 4 + if m.modType = 0 then 16 * (m.modM.toInt : Rat) else 0 := by
  simp [totalOffset, ModState.vibrato]

/-- No bend, no fine tune and no vibrato give no offset (rule R241). -/
theorem totalOffset_exact_zero {m : ModState} (hfine : m.fineTune = 0) (hlfo : m.modType ≠ 0 ∨ m.modM = 0) :
    totalOffset .exact m 0 = 0 := by
  rw [totalOffset_exact, hfine]
  have hvibrato : (if m.modType = 0 then 16 * (m.modM.toInt : Rat) else 0) = 0 := by
    obtain htype | hdepth := hlfo
    · exact if_neg htype
    · rw [hdepth]
      simp
  rw [hvibrato]
  simp

/-- `configure` writes the one step of the slot's kind, by the formula of the kind (rules R242 to R246, R249). -/
theorem configure_retuned {pf : Platform} (hfp : pf.params.fp = .exact) (href : pf.params.refHz ≠ 0) (rate : Rat)
    (key : Int) (total : Rat) (v : Slot) : Slot.retuned pf rate key total v (configure pf rate key total v) := by
  unfold Slot.retuned configure
  dsimp only
  cases (readVoice pf v.voiceRef).kind with
  | directSound =>
    refine ⟨_, rfl, fun hnone => by rw [hnone]; rfl, fun smp hsmp => ?_⟩
    rw [hsmp]
    exact dsStep_toReal hfp href rate _ smp key total
  | square1 | square2 =>
    dsimp only
    rw [squareInc, hfp, Fp.divQ_exact, squareHz_exact, cgbReg_exact hfp]
  | progWave =>
    refine ⟨_, rfl, fun hnone => by rw [hnone]; rfl, fun smp hsmp => ?_⟩
    rw [hsmp, waveStep, hfp, Fp.divQ_exact, Fp.mulQ_exact, waveHz_exact, cgbReg_exact hfp]
  | noise =>
    dsimp only
    rw [noiseIntervalOf, hfp, Fp.divQ_exact, intSemi_exact]
  | empty | keysplit | keysplitAll => rfl

/-! ## PBEND on one slot -/

theorem bendSlot_other (pf : Platform) (rate : Rat) {c : Fin 16} (m : ModState) (x : Rat) {v : Slot}
    (h : v.active = false ∨ v.channel ≠ c) : bendSlot pf rate c m x v = v := by
  unfold bendSlot
  obtain h | h := h <;> simp [h]

/-- An active voice of the channel takes the bend and a pitch update (rule R106). -/
theorem bendSlot_own (pf : Platform) (rate : Rat) {c : Fin 16} (m : ModState) (x : Rat) {v : Slot}
    (hactive : v.active = true) (hchannel : v.channel = c) :
    bendSlot pf rate c m x v = pitchUpdate pf rate m { v with pitchBend := x } := by
  simp [bendSlot, hactive, hchannel]

/-- A rhythm voice takes the bend alone (rules R106, R247). -/
theorem bendSlot_rhythm (pf : Platform) (rate : Rat) {c : Fin 16} (m : ModState) (x : Rat) {v : Slot}
    (hactive : v.active = true) (hchannel : v.channel = c) (hrhythm : v.isRhythm = true) :
    bendSlot pf rate c m x v = { v with pitchBend := x } := by
  rw [bendSlot_own pf rate m x hactive hchannel]
  exact pitchUpdate_rhythm (v := { v with pitchBend := x }) hrhythm pf rate m

/-- Any other voice is configured for its note at the total offset (rules R106, R240, R249). -/
theorem bendSlot_melodic (pf : Platform) (rate : Rat) {c : Fin 16} (m : ModState) (x : Rat) {v : Slot}
    (hactive : v.active = true) (hchannel : v.channel = c) (hmelodic : v.isRhythm = false) :
    bendSlot pf rate c m x v =
      configure pf rate (v.note.toNat : Int) (totalOffset pf.params.fp m x) { v with pitchBend := x } := by
  rw [bendSlot_own pf rate m x hactive hchannel]
  simp [pitchUpdate, hmelodic]

/-- The step of a square voice (rules R244, R249). -/
theorem configure_square {pf : Platform} {v : Slot}
    (hk : (readVoice pf v.voiceRef).kind = .square1 ∨ (readVoice pf v.voiceRef).kind = .square2) (rate : Rat) (key : Int)
    (total : Rat) :
    configure pf rate key total v = { v with squarePhaseInc := squareInc pf.params rate key total } := by
  obtain hk | hk := hk <;> simp only [configure, hk]

/-- A slot that a bend of channel `c` retunes by the square formula. -/
structure BendableSquare (pf : Platform) (c : Fin 16) (v : Slot) : Prop where
  active : v.active = true
  channel : v.channel = c
  melodic : v.isRhythm = false
  kind : (readVoice pf v.voiceRef).kind = .square1 ∨ (readVoice pf v.voiceRef).kind = .square2

/-- PBEND writes the bend and the square step of such a slot, and nothing else (rules R106, R244). -/
theorem BendableSquare.bendSlot_eq {pf : Platform} {c : Fin 16} {v : Slot} (h : BendableSquare pf c v) (rate : Rat)
    (m : ModState) (x : Rat) :
    bendSlot pf rate c m x v =
      { v with
        pitchBend := x
        squarePhaseInc := squareInc pf.params rate (v.note.toNat : Int) (totalOffset pf.params.fp m x) } := by
  rw [bendSlot_melodic pf rate m x h.active h.channel h.melodic]
  exact configure_square (v := { v with pitchBend := x }) h.kind rate _ _

theorem BendableSquare.bend {pf : Platform} {c : Fin 16} {v : Slot} (h : BendableSquare pf c v) (rate : Rat)
    (m : ModState) (x : Rat) : BendableSquare pf c (bendSlot pf rate c m x v) := by
  rw [h.bendSlot_eq]
  exact ⟨h.active, h.channel, h.melodic, h.kind⟩

/-- Of two bends the second alone decides the bend and the step of such a slot. -/
theorem BendableSquare.bendSlot_bendSlot {pf : Platform} {c : Fin 16} {v : Slot} (h : BendableSquare pf c v) (rate : Rat)
    (m : ModState) (x y : Rat) : bendSlot pf rate c m y (bendSlot pf rate c m x v) = bendSlot pf rate c m y v := by
  rw [(h.bend rate m x).bendSlot_eq, h.bendSlot_eq, h.bendSlot_eq]

/-! ## PBEND -/

theorem exec_pbend_dropped {s : State} {rate : Rat} {ch : Byte} (hrate : s.sampleRate = some rate) (hch : 15 < ch.toNat)
    (b : BitVec 16) : exec (.pbend ch b) s = .next s := by
  change execPbend ch b s = .next s
  simp only [execPbend, hrate, channelOf_none hch]
  rfl

theorem exec_pbend {s : State} {rate : Rat} {ch : Byte} {c : Fin 16} (hrate : s.sampleRate = some rate)
    (hch : ch.toNat = c.val) (b : BitVec 16) : exec (.pbend ch b) s = .next (bendChannel rate c b s) := by
  change execPbend ch b s = .next _
  simp only [execPbend, hrate, channelOf_some hch]

theorem bendSemitones_exact (b : BitVec 16) (range : BitVec 32) :
    bendSemitones .exact b range = (b.toInt : Rat) / 8192 * (range.toInt : Rat) := rfl

theorem bendSemitones_exact_zero (range : BitVec 32) : bendSemitones .exact 0 range = 0 := by
  simp [bendSemitones_exact]

theorem bendChannel_v (rate : Rat) (c : Fin 16) (b : BitVec 16) (s : State) (i : Fin 24) :
    (bendChannel rate c b s).v[i.val] =
      bendSlot s.platform rate c (s.ch[c.val]).modState
        (bendSemitones s.platform.params.fp b (s.ch[c.val]).pitchBendRange) s.v[i.val] := by
  simp only [bendChannel, State.mapSlots_v, getElem_mapVec, State.setChannel_v]

theorem bendChannel_platform (rate : Rat) (c : Fin 16) (b : BitVec 16) (s : State) :
    (bendChannel rate c b s).platform = s.platform := rfl

/-- PBEND writes no ModState (rule R106). -/
theorem bendChannel_modState (rate : Rat) (c : Fin 16) (b : BitVec 16) (s : State) :
    ((bendChannel rate c b s).ch[c.val]).modState = (s.ch[c.val]).modState := by
  simp [bendChannel]

/-- Settles O30: the second bend alone decides the step, and its total offset is 0. -/
theorem pitchBendRoundTripIsExact : Obligations.PitchBendRoundTripIsExact := by
  intro s t u rate ch c b i hrate hfp hch hactive hchannel hmelodic hkind hfine hlfo ht hu
  rw [exec_pbend hrate hch] at ht
  cases ht
  rw [exec_pbend (s := bendChannel rate c b s) hrate hch] at hu
  cases hu
  have hsquare : BendableSquare s.platform c s.v[i.val] := ⟨hactive, hchannel, hmelodic, hkind⟩
  rw [bendChannel_v, bendChannel_modState, bendChannel_v, bendChannel_platform, hsquare.bendSlot_bendSlot,
    hsquare.bendSlot_eq, hfp, bendSemitones_exact_zero, totalOffset_exact_zero hfine hlfo, squareInc_exact_zero hfp]
  exact ⟨rfl, rfl⟩

/-- Settles O29: the slots are those of `bendSlot`, and a melodic voice of the channel is configured by its kind. -/
theorem pitchBendRetunesTheChannel : Obligations.PitchBendRetunesTheChannel := by
  intro s rate ch b hrate hfp href
  refine ⟨fun hch => exec_pbend_dropped hrate hch b, fun c hch => ?_⟩
  dsimp only
  rw [← totalOffset_exact, ← bendSemitones_exact]
  refine ⟨(bendChannel rate c b s).v, ?_, fun i => ?_⟩
  · rw [exec_pbend hrate hch, ← hfp]
    rfl
  · rw [bendChannel_v, hfp]
    refine ⟨bendSlot_other _ _ _ _, fun hactive hchannel => ⟨bendSlot_rhythm _ _ _ _ hactive hchannel, fun hmelodic => ?_⟩⟩
    rw [bendSlot_melodic _ _ _ _ hactive hchannel hmelodic, hfp]
    exact configure_retuned hfp href.ne' rate _ _ _

end Sys2Proof.Machine
end

section
/-! PROOFS. The commands that write the rate, one channel or the phases of slots: RESET, SET_RATE, the control changes,
ALL_OFF and NOTE_OFF (rules R101 to R105, R108 to R121). -/

namespace Sys2Proof.Machine

/-! ## RESET and SET_RATE -/

/-- Settles O12: `resetEngine` writes the four fields, every slot by `goOff` and every channel by its reset value. -/
theorem resetRestoresTheDefaults : Obligations.ResetRestoresTheDefaults := by
  intro s
  refine ⟨(resetEngine s).ch, (resetEngine s).v, rfl, resetEngine_v s, fun c => ?_⟩
  rw [resetEngine_ch]
  exact ⟨rfl, rfl, rfl, rfl, rfl, rfl⟩

/-- Settles O15: the two branches of `execSetRate`. -/
theorem setRateWritesTheRateOnly : Obligations.SetRateWritesTheRateOnly :=
  fun _ _ => ⟨fun hw => if_neg hw, fun hw => if_pos hw⟩

/-! ## Control changes -/

/-- A control change on a channel 0..15 writes that channel and nothing else (rule R108). -/
theorem controlChange_eq {ch : Byte} {c : Fin 16} (hch : ch.toNat = c.val) (f : Channel → Channel) (s : State) :
    controlChange ch f s = .next { s with ch := s.ch.set c.val (f s.ch[c.val]) } := by
  simp only [controlChange, channelOf_some hch]
  rfl

theorem controlChange_dropped {ch : Byte} (hch : 15 < ch.toNat) (f : Channel → Channel) (s : State) :
    controlChange ch f s = .next s := by
  simp only [controlChange, channelOf_none hch]
  rfl

/-- A control change that leaves its channel as it was changes nothing. -/
theorem controlChange_unchanged {ch : Byte} {c : Fin 16} (hch : ch.toNat = c.val) {f : Channel → Channel} {s : State}
    (hf : f s.ch[c.val] = s.ch[c.val]) : controlChange ch f s = .next s := by
  rw [controlChange_eq hch, hf, Vector.set_getElem_self]

/-- A control change of the ModState (rules R109, R113 to R118). -/
theorem controlChange_modState {ch : Byte} {c : Fin 16} (hch : ch.toNat = c.val) {f : ModState → ModState} {s : State}
    {m : ModState} (hf : f (s.ch[c.val]).modState = m) :
    controlChange ch (onModState f) s =
      .next { s with ch := s.ch.set c.val { s.ch[c.val] with modState := m } } := by
  rw [controlChange_eq hch, onModState, hf]

theorem setMod_of_ne_zero {value : BitVec 7} (h : value ≠ 0) (m : ModState) :
    setMod value m = { m with mod := byteOf value } := if_neg h

theorem setMod_zero (m : ModState) :
    setMod 0 m = { m with mod := 0, lfoPhaseCounter := 0, lfoDelayCountdown := m.lfoDelay } := rfl

theorem setLfoSpeed_of_ne_zero {value : BitVec 7} (h : value ≠ 0) (m : ModState) :
    setLfoSpeed value m = { m with lfoSpeed := byteOf value } := if_neg h

theorem setLfoSpeed_zero (m : ModState) :
    setLfoSpeed 0 m = { m with lfoSpeed := 0, lfoPhaseCounter := 0, lfoDelayCountdown := m.lfoDelay } := rfl

/-- Settles O16: CC 1 and CC 21 write the ModState by `setMod` and `setLfoSpeed`, which restart the LFO at 0. -/
theorem depthAndSpeedZeroRestartTheLfo : Obligations.DepthAndSpeedZeroRestartTheLfo := by
  intro s ch c v hch
  refine ⟨fun hv => ⟨?_, ?_⟩, fun hv => ?_⟩
  · exact controlChange_modState hch (setMod_of_ne_zero hv _)
  · exact controlChange_modState hch (setLfoSpeed_of_ne_zero hv _)
  · subst hv
    exact ⟨controlChange_modState hch (setMod_zero _), controlChange_modState hch (setLfoSpeed_zero _)⟩

/-- An integer in the range of a signed byte is the value of its byte (rule R10). -/
theorem i8_toInt {v : Int} (hlo : -128 ≤ v) (hhi : v < 128) : (i8 v).toInt = v := by
  rw [i8, BitVec.toInt_ofInt, Int.bmod_def]
  omega

theorem xcmd_volume {m : ModState} (h : m.xcmdType = 8) (value : BitVec 7) :
    xcmd value m = { m with pseudoEchoVol := byteOf value } := if_pos h

theorem xcmd_length {m : ModState} (h : m.xcmdType = 9) (value : BitVec 7) :
    xcmd value m = { m with pseudoEchoLen := byteOf value } := by
  simp [xcmd, h]

theorem xcmd_other {m : ModState} (h8 : m.xcmdType ≠ 8) (h9 : m.xcmdType ≠ 9) (value : BitVec 7) : xcmd value m = m := by
  simp only [xcmd, h8, h9, if_false]

/-- Settles O17: each control change writes the ModState by its own function; XCMD has one case per type. -/
theorem modulationSettingsAreStored : Obligations.ModulationSettingsAreStored := by
  intro s ch c v hch
  have hv := v.isLt
  exact ⟨controlChange_modState hch rfl,
    ⟨i8 ((v.toNat : Int) - 64), i8_toInt (by omega) (by omega), controlChange_modState hch rfl⟩,
    controlChange_modState hch rfl,
    controlChange_modState hch rfl,
    fun h8 => controlChange_modState hch (xcmd_volume h8 v),
    fun h9 => controlChange_modState hch (xcmd_length h9 v),
    fun h8 h9 => controlChange_unchanged hch (congrArg (fun m => { s.ch[c.val] with modState := m }) (xcmd_other h8 h9 v))⟩

theorem exec_ccBendr (ch : Byte) (value : BitVec 7) (s : State) :
    exec (.ccBendr ch value) s = controlChange ch (fun x => { x with pitchBendRange := value.setWidth 32 }) s := rfl

theorem exec_ccVol (ch : Byte) (value : BitVec 7) (s : State) :
    exec (.ccVol ch value) s = controlChange ch (fun x => { x with volume := ratioOf s.platform.params.fp value }) s := rfl

theorem exec_ccPan (ch : Byte) (value : BitVec 7) (s : State) :
    exec (.ccPan ch value) s = controlChange ch (fun x => { x with pan := ratioOf s.platform.params.fp value }) s := rfl

/-- Settles O18: each writes one field of the channel, CC 7 and CC 10 the ratio of the value to 127. -/
theorem volumePanAndRangeAreStored : Obligations.VolumePanAndRangeAreStored := by
  intro s ch c v hch
  refine ⟨fun hfp => ?_, (exec_ccBendr ch v s).trans (controlChange_eq hch _ s)⟩
  rw [exec_ccVol, exec_ccPan, hfp]
  exact ⟨controlChange_eq hch _ s, controlChange_eq hch _ s⟩

theorem execCcAlloff_dropped {ch : Byte} (hch : 15 < ch.toNat) (value : BitVec 7) (s : State) :
    execCcAlloff ch value s = .next s := by
  simp only [execCcAlloff, channelOf_none hch]
  rfl

/-- Settles O19: the channel test of each command comes first, and CC_OTHER is a drop. -/
theorem badChannelsAndOtherControllersAreDropped : Obligations.BadChannelsAndOtherControllersAreDropped := by
  refine ⟨fun s ch v hch i hi => ?_, fun s ch b hch hrate => ?_, fun s ch k v => rfl⟩
  · simp only [List.mem_cons, List.not_mem_nil, or_false] at hi
    rcases hi with rfl | rfl | rfl | rfl | rfl | rfl | rfl | rfl | rfl | rfl | rfl
    pick_goal 11
    · exact execCcAlloff_dropped hch v s
    all_goals
      unfold exec
      exact controlChange_dropped hch _ s
  · obtain ⟨rate, hrate⟩ := Option.ne_none_iff_exists'.1 hrate
    exact exec_pbend_dropped hrate hch b

/-! ## ALL_OFF and NOTE_OFF -/

/-- A number above 15 is no slot's channel. -/
theorem channel_ne_of_large {ch : Byte} (hch : 15 < ch.toNat) (v : Slot) : v.channel.val ≠ ch.toNat := by
  have hc := v.channel.isLt
  omega

/-- ALL_OFF stops the active slots of the channel and leaves the others (rule R105). -/
theorem killOn_eq (ch : Byte) (v : Slot) :
    killOn ch v =
      if v.active = true ∧ v.channel.val = ch.toNat then { v with active := false, phase := .off } else v := by
  simp only [killOn, goOff, Bool.and_eq_true, decide_eq_true_eq, and_comm]

/-- ALL_OFF on a channel above 15 matches no slot (rule R105). -/
theorem allNotesOff_large {ch : Byte} (hch : 15 < ch.toNat) (s : State) : allNotesOff ch s = s := by
  refine mapSlots_id fun i => ?_
  rw [killOn_eq, if_neg fun hmatch => channel_ne_of_large hch _ hmatch.2]

theorem execCcAlloff_eq (ch : Byte) (value : BitVec 7) (s : State) : execCcAlloff ch value s = execAllOff ch s := by
  by_cases hch : 15 < ch.toNat
  · rw [execCcAlloff_dropped hch, execAllOff, allNotesOff_large hch]
  · have hsome := channelOf_some (ch := ch) (c := ⟨ch.toNat, by omega⟩) rfl
    simp only [execCcAlloff, hsome, execAllOff]

/-- Settles O20: ALL_OFF maps `killOn` over the pool, and CC 123 differs from it on channels only that match no slot. -/
theorem allOffStopsTheChannel : Obligations.AllOffStopsTheChannel := by
  intro s ch
  refine ⟨⟨mapVec (killOn ch) s.v, rfl, fun i => ?_⟩, fun hch => ?_, fun v => execCcAlloff_eq ch v s⟩
  · rw [getElem_mapVec, killOn_eq]
  · exact congrArg Host.Outcome.next (allNotesOff_large hch s)

theorem held_iff (p : Phase) : p.held = true ↔ p ≠ .release ∧ p ≠ .echo ∧ p ≠ .off := by
  cases p <;> simp [Phase.held]

/-- NOTE_OFF releases the held voices of the channel and note and loads the counter of a CGB voice (rule R104). -/
theorem releaseNote_eq (pf : Platform) (ch : Byte) (note : BitVec 7) (v : Slot) :
    releaseNote pf ch note v =
      if v.active = true ∧ v.channel.val = ch.toNat ∧ v.note = note ∧
          v.phase ≠ .release ∧ v.phase ≠ .echo ∧ v.phase ≠ .off then
        { v with
          phase := .release
          envelopeCounter := if v.isCgbVoice then ((readVoice pf v.voiceRef).release.toNat : Int) else v.envelopeCounter }
      else v := by
  have hcond : (v.sounds ch note && v.phase.held) = true ↔
      v.active = true ∧ v.channel.val = ch.toNat ∧ v.note = note ∧
        v.phase ≠ .release ∧ v.phase ≠ .echo ∧ v.phase ≠ .off := by
    simp only [Slot.sounds, Bool.and_eq_true, decide_eq_true_eq, held_iff, and_assoc]
  simp only [releaseNote, hcond]
  congr 1
  cases hcgb : v.isCgbVoice <;> rfl

/-- Settles O21: NOTE_OFF maps `releaseNote` over the pool. -/
theorem noteOffReleasesTheMatchingVoices : Obligations.NoteOffReleasesTheMatchingVoices := by
  intro s ch note
  refine ⟨⟨mapVec (releaseNote s.platform ch note) s.v, rfl, fun i => ?_⟩, fun hch => ?_⟩
  · rw [getElem_mapVec, releaseNote_eq]
  · refine congrArg Host.Outcome.next (mapSlots_id fun i => ?_)
    rw [releaseNote_eq, if_neg fun hmatch => channel_ne_of_large hch _ hmatch.2.1]

end Sys2Proof.Machine
end

section
/-! PROOFS. The pitch tables (rules R131 to R139, R242, R246): the register of a key, in range and rising with the default
`SCALE_TABLE`, and the frequencies and the noise interval in exact reals. -/

namespace Sys2Proof.Machine

/-! ## The register of a key -/

theorem baseFreq_of_le {i : Nat} (hi : i ≤ 11) : baseFreq i = baseFreqTable.getD i 0 := by
  have hlt : i < baseFreqTable.length := Nat.lt_succ_of_le hi
  rw [baseFreq, List.getElem?_eq_getElem hlt, List.getD_eq_getElem _ _ hlt]

/-- A scale byte with a base index 0..11 selects an entry of `BASE_FREQ_TABLE` (rule R132). -/
theorem scaleValue_eq {p : Params} {key e : Nat} (he : (p.scaleTable.toList.getD key 0).toNat = e) (hbase : e % 16 ≤ 11) :
    scaleValue p key = baseFreqTable.getD (e % 16) 0 / 2 ^ (e / 16) := by
  rw [scaleValue, he, sar_eq, baseFreq_of_le hbase]

/-- The base index of a byte read at any key: one of the table's, or of the byte 0 past its end. -/
theorem scaleByte_base_le {p : Params} (hp : ∀ e ∈ p.scaleTable.toList, e.toNat % 16 ≤ 11) (key : Nat) :
    (p.scaleTable.toList.getD key 0).toNat % 16 ≤ 11 := by
  by_cases hkey : key < p.scaleTable.toList.length
  · rw [List.getD_eq_getElem _ _ hkey]
    exact hp _ (List.getElem_mem hkey)
  · rw [List.getD_eq_default _ _ (not_lt.1 hkey)]
    exact Nat.zero_le _

theorem blendReg_eq (p : Params) (key : Nat) (fine : Int) :
    blendReg p key fine = scaleValue p key + fine * (scaleValue p (key + 1) - scaleValue p key) / 256 + 2048 := by
  rw [blendReg, sar_eq]
  rfl

theorem blendReg_fine_zero (p : Params) (key : Nat) : blendReg p key 0 = scaleValue p key + 2048 := by
  rw [blendReg_eq, zero_mul, Int.zero_ediv, add_zero]

/-- Between two values that do not fall, the interpolation stays between them (rule R133). -/
theorem blendReg_between {p : Params} {key : Nat} {fine : Int} (hle : scaleValue p key ≤ scaleValue p (key + 1))
    (h0 : 0 ≤ fine) (h1 : fine ≤ 255) :
    scaleValue p key + 2048 ≤ blendReg p key fine ∧ blendReg p key fine ≤ scaleValue p (key + 1) + 2048 := by
  have hgap := sub_nonneg.2 hle
  have hlo := mul_nonneg h0 hgap
  have hhi := mul_le_mul_of_nonneg_right h1 hgap
  rw [blendReg_eq]
  omega

theorem midiToCgbReg_low (p : Params) {key : Int} (hkey : key ≤ 35) (fine : Int) :
    midiToCgbReg p key fine = blendReg p 0 0 := if_pos hkey

theorem midiToCgbReg_mid (p : Params) {k : Nat} (hk : k ≤ 130) (fine : Int) :
    midiToCgbReg p ((k : Int) + 36) fine = blendReg p k fine := by
  rw [midiToCgbReg, if_neg (by omega), if_neg (by omega), add_sub_cancel_right, Int.toNat_natCast]

theorem midiToCgbReg_high (p : Params) {key : Int} (hkey : 166 < key) (fine : Int) :
    midiToCgbReg p key fine = blendReg p 130 255 := by
  rw [midiToCgbReg, if_neg (by omega), if_pos (by omega)]

/-- The three ranges of rule R133. -/
theorem key_range_cases (key : Int) : key ≤ 35 ∨ (∃ k : Nat, k ≤ 130 ∧ key = (k : Int) + 36) ∨ 166 < key := by
  by_cases hlow : key ≤ 35
  · exact .inl hlow
  · by_cases hhigh : 166 < key
    · exact .inr (.inr hhigh)
    · exact .inr (.inl ⟨(key - 36).toNat, by omega, by omega⟩)

/-! ## The default `SCALE_TABLE` -/

/-- The value the default `SCALE_TABLE` gives a reduced key (rules R131, R132), without its end at 131. -/
def temperedValue (k : Nat) : Int := baseFreqTable.getD (k % 12) 0 / 2 ^ (k / 12)

theorem standard_scaleByte {k : Nat} (hk : k < 132) :
    (Params.standard.scaleTable.toList.getD k 0).toNat = k / 12 * 16 + k % 12 := by
  have hentry : Params.standard.scaleTable.toList.getD k 0 = BitVec.ofNat 8 (k / 12 * 16 + k % 12) := by
    simp [Params.standard, defaultScaleTable, List.getD, hk]
  rw [hentry, BitVec.toNat_ofNat]
  omega

theorem scaleValue_standard {k : Nat} (hk : k < 132) : scaleValue .standard k = temperedValue k := by
  have hindex : (k / 12 * 16 + k % 12) % 16 = k % 12 := by omega
  have hshift : (k / 12 * 16 + k % 12) / 16 = k / 12 := by omega
  rw [scaleValue_eq (standard_scaleByte hk) (by omega), hindex, hshift]
  rfl

/-- The values rise inside an octave with `BASE_FREQ_TABLE`, and from an octave to the next because the first entry is
above twice the last. -/
theorem temperedValue_le_succ (k : Nat) : temperedValue k ≤ temperedValue (k + 1) := by
  unfold temperedValue
  by_cases hlast : k % 12 = 11
  · have hindex : (k + 1) % 12 = 0 := by omega
    have hshift : (k + 1) / 12 = k / 12 + 1 := by omega
    rw [hlast, hindex, hshift]
    calc baseFreqTable.getD 11 0 / 2 ^ (k / 12)
        = baseFreqTable.getD 11 0 * 2 / (2 ^ (k / 12) * 2) := (Int.mul_ediv_mul_of_pos_left _ _ two_pos).symm
      _ = baseFreqTable.getD 11 0 * 2 / 2 ^ (k / 12 + 1) := by rw [pow_succ]
      _ ≤ baseFreqTable.getD 0 0 / 2 ^ (k / 12 + 1) := Int.ediv_le_ediv (by positivity) (by decide)
  · have hrise : ∀ r < 11, baseFreqTable.getD r 0 ≤ baseFreqTable.getD (r + 1) 0 := by decide
    have hindex : (k + 1) % 12 = k % 12 + 1 := by omega
    have hshift : (k + 1) / 12 = k / 12 := by omega
    rw [hindex, hshift]
    exact Int.ediv_le_ediv (by positivity) (hrise _ (by omega))

theorem temperedValue_monotone : Monotone temperedValue := monotone_nat_of_le_succ temperedValue_le_succ

/-- The register of a reduced key lies between the biased values of the key and of the next. -/
theorem blendReg_standard_between {k : Nat} (hk : k ≤ 130) {fine : Int} (h0 : 0 ≤ fine) (h1 : fine ≤ 255) :
    temperedValue k + 2048 ≤ blendReg .standard k fine ∧ blendReg .standard k fine ≤ temperedValue (k + 1) + 2048 := by
  rw [← scaleValue_standard (by omega : k < 132), ← scaleValue_standard (by omega : k + 1 < 132)]
  refine blendReg_between ?_ h0 h1
  rw [scaleValue_standard (by omega), scaleValue_standard (by omega)]
  exact temperedValue_le_succ k

theorem blendReg_standard_fine_zero {k : Nat} (hk : k ≤ 130) : blendReg .standard k 0 = temperedValue k + 2048 := by
  rw [blendReg_fine_zero, scaleValue_standard (by omega)]

theorem blendReg_standard_range {k : Nat} (hk : k ≤ 130) {fine : Int} (h0 : 0 ≤ fine) (h1 : fine ≤ 255) :
    44 ≤ blendReg .standard k fine ∧ blendReg .standard k fine ≤ 2046 := by
  obtain ⟨hlo, hhi⟩ := blendReg_standard_between hk h0 h1
  have hfirst : temperedValue 0 = -2004 := by decide
  have hlast : temperedValue 131 = -2 := by decide
  have hge := temperedValue_monotone (Nat.zero_le k)
  have hle := temperedValue_monotone (by omega : k + 1 ≤ 131)
  omega

/-- The register is in 44..2046 with the default table (rule R138). -/
theorem midiToCgbReg_standard_range (key : Int) {fine : Int} (h0 : 0 ≤ fine) (h1 : fine ≤ 255) :
    44 ≤ midiToCgbReg .standard key fine ∧ midiToCgbReg .standard key fine ≤ 2046 := by
  obtain hlow | ⟨k, hk, rfl⟩ | hhigh := key_range_cases key
  · rw [midiToCgbReg_low _ hlow]
    exact blendReg_standard_range (by norm_num) le_rfl (by norm_num)
  · rw [midiToCgbReg_mid _ hk]
    exact blendReg_standard_range hk h0 h1
  · rw [midiToCgbReg_high _ hhigh]
    exact blendReg_standard_range le_rfl (by norm_num) le_rfl

/-- The register does not fall from a key to the next with the default table (rule R139). -/
theorem midiToCgbReg_standard_le_succ (key : Int) :
    midiToCgbReg .standard key 0 ≤ midiToCgbReg .standard (key + 1) 0 := by
  obtain hlow | ⟨k, hk, rfl⟩ | hhigh := key_range_cases key
  · rw [midiToCgbReg_low _ hlow]
    by_cases hlast : key = 35
    · subst hlast
      exact (midiToCgbReg_mid .standard (Nat.zero_le 130) 0).ge
    · exact (midiToCgbReg_low .standard (by omega) 0).ge
  · rw [midiToCgbReg_mid _ hk, blendReg_standard_fine_zero hk]
    by_cases hlast : k = 130
    · subst hlast
      rw [midiToCgbReg_high _ (by norm_num)]
      exact (blendReg_standard_between le_rfl (by norm_num) le_rfl).1
    · have hnext : ((k : Int) + 36) + 1 = ((k + 1 : Nat) : Int) + 36 := by push_cast; ring
      have hstep := temperedValue_le_succ k
      rw [hnext, midiToCgbReg_mid _ (by omega), blendReg_standard_fine_zero (by omega)]
      omega
  · rw [midiToCgbReg_high _ hhigh, midiToCgbReg_high _ (by omega)]

/-- Settles O31: the three ranges of the key by the entries of the table, then the default table, whose values rise. -/
theorem registerValueIsInRangeAndMonotone : Obligations.RegisterValueIsInRangeAndMonotone := by
  refine ⟨fun p fine hp => ?_, fun key fine h0 h1 => midiToCgbReg_standard_range key h0 h1,
    midiToCgbReg_standard_le_succ⟩
  intro v
  have hv (k : Nat) : scaleValue p k = v k := scaleValue_eq rfl (scaleByte_base_le hp k)
  refine ⟨fun key hkey => ?_, fun k hk => ?_, fun key hkey => ?_⟩
  · rw [midiToCgbReg_low p hkey, blendReg_fine_zero, hv]
  · rw [midiToCgbReg_mid p hk, blendReg_eq, hv, hv]
  · rw [midiToCgbReg_high p hkey, blendReg_eq, hv, hv]

/-! ## The split of an offset -/

theorem fineOf_exact (total : Rat) : fineOf .exact total = ⌊total - ((intSemi .exact total * 256 : Int) : Rat)⌋ := rfl

/-- `fine` is the floor of what the semitones leave of the offset, a number in `[0, 256)` (rule R242). -/
theorem fineOf_exact_range (total : Rat) : 0 ≤ fineOf .exact total ∧ fineOf .exact total ≤ 255 := by
  have hle : ((⌊total / 256⌋ : Int) : Rat) ≤ total / 256 := Int.floor_le _
  have hlt : total / 256 < ((⌊total / 256⌋ : Int) : Rat) + 1 := Int.lt_floor_add_one _
  rw [fineOf_exact, intSemi_exact]
  constructor
  · refine Int.floor_nonneg.2 ?_
    push_cast
    linarith
  · refine Int.le_of_lt_add_one (Int.floor_lt.2 ?_)
    push_cast
    linarith

theorem offset_split_exact (total : Rat) :
    ((256 * intSemi .exact total + fineOf .exact total : Int) : Rat) ≤ total ∧
      total < ((256 * intSemi .exact total + fineOf .exact total + 1 : Int) : Rat) := by
  have hle := Int.floor_le (total - ((intSemi .exact total * 256 : Int) : Rat))
  have hlt := Int.lt_floor_add_one (total - ((intSemi .exact total * 256 : Int) : Rat))
  rw [← fineOf_exact] at hle hlt
  push_cast at hle hlt ⊢
  constructor <;> linarith

/-! ## The noise rate -/

/-- The ratio of an NR43 byte: its low three bits, with 1/2 for 0 (rule R137). -/
def nr43Ratio (b : Nat) : Rat := if b % 8 = 0 then 1 / 2 else ((b % 8 : Nat) : Rat)

theorem half_le_nr43Ratio (b : Nat) : 1 / 2 ≤ nr43Ratio b := by
  unfold nr43Ratio
  split
  case isTrue => exact le_rfl
  case isFalse h0 =>
    have hone : (1 : Rat) ≤ ((b % 8 : Nat) : Rat) := by exact_mod_cast Nat.pos_of_ne_zero h0
    linarith

theorem nr43Hz_exact (b : Byte) : nr43Hz .exact b = 524288 / (nr43Ratio b.toNat * 2 ^ (b.toNat / 16 + 1)) := by
  simp only [nr43Hz, nr43Ratio, Fp.divQ_exact, Fp.mulQ_exact, noiseClock, Nat.cast_pow, Nat.cast_ofNat]

/-- The clock is divided by at least `1/2 * 2 = 1` (rule R137). -/
theorem nr43Hz_exact_range (b : Byte) : 0 < nr43Hz .exact b ∧ nr43Hz .exact b ≤ 524288 := by
  have hpow : (2 : Rat) ≤ 2 ^ (b.toNat / 16 + 1) := le_self_pow₀ one_le_two (Nat.succ_ne_zero _)
  have hdenom : (1 : Rat) ≤ nr43Ratio b.toNat * 2 ^ (b.toNat / 16 + 1) :=
    calc (1 : Rat) = 1 / 2 * 2 := by norm_num
      _ ≤ nr43Ratio b.toNat * 2 ^ (b.toNat / 16 + 1) :=
        mul_le_mul (half_le_nr43Ratio _) hpow zero_le_two (by linarith [half_le_nr43Ratio b.toNat])
  rw [nr43Hz_exact]
  exact ⟨div_pos (by norm_num) (by linarith), div_le_self (by norm_num) hdenom⟩

theorem noiseKeyToHz_exact {p : Params} (hp : p.fp = .exact) (key : Int) :
    noiseKeyToHz p key = nr43Hz .exact (p.noiseTable.toList.getD (min (max (key - 21) 0) 59).toNat 0) := by
  rw [noiseKeyToHz, hp]
  rfl

/-- Settles O32: the frequencies in exact reals, the floors of the split, and the bound of the noise rate. -/
theorem offsetSplitsAndNoiseIntervalIsPositive : Obligations.OffsetSplitsAndNoiseIntervalIsPositive := by
  refine ⟨fun reg => ⟨fun hreg => ?_, fun hreg => ?_⟩, fun total => ?_, fun p rate key total hp => ⟨?_, ?_, ?_⟩⟩
  · rw [squareHz_exact, waveHz_exact, if_pos hreg, if_pos hreg]
    exact ⟨rfl, rfl⟩
  · rw [squareHz_exact, waveHz_exact, if_neg hreg.not_gt, if_neg hreg.not_gt]
    exact ⟨rfl, rfl⟩
  · obtain ⟨hlo, hhi⟩ := fineOf_exact_range total
    exact ⟨hlo, hhi, offset_split_exact total⟩
  · exact (noiseKeyToHz_exact hp key).trans (nr43Hz_exact _)
  · rw [noiseIntervalOf, hp, Fp.divQ_exact, intSemi_exact]
  · intro hrate
    obtain ⟨hpos, hle⟩ := nr43Hz_exact_range (p.noiseTable.toList.getD (min (max (key - 21) 0) 59).toNat 0)
    rw [noiseKeyToHz_exact hp]
    exact ⟨hpos, hle, noiseIntervalOf_pos hp hrate key total⟩

end Sys2Proof.Machine
end

section
/-! PROOFS. The generators asked for by themselves (rules R145 to R154): what such an operation writes, the square generator,
the shift register bit by bit, the noise generator, and the sample generators without a sample. -/

namespace Sys2Proof.Machine

/-! ## A generator on one slot -/

/-- The operation `i` runs the generator `gen`, which makes `w` of the active slot and delivers `out`. -/
theorem exec_generator {i : Instr} {s : State} {gen : Slot → Slot × Pow2Sum} {w : Slot} {out : Pow2Sum}
    (hexec : exec i s = .next (stepGenerator gen s)) (hactive : (s.v[s.genSlot.val]).active = true)
    (hgen : gen s.v[s.genSlot.val] = (w, out)) :
    exec i s = .next { s with v := s.v.set s.genSlot.val w, genOut := out } := by
  rw [hexec, stepGenerator_active hactive, hgen]

/-- A generator that leaves its slot as it is writes its result only. -/
theorem exec_generator_keep {i : Instr} {s : State} {gen : Slot → Slot × Pow2Sum} {out : Pow2Sum}
    (hexec : exec i s = .next (stepGenerator gen s)) (hactive : (s.v[s.genSlot.val]).active = true)
    (hgen : gen s.v[s.genSlot.val] = (s.v[s.genSlot.val], out)) : exec i s = .next { s with genOut := out } := by
  rw [exec_generator hexec hactive hgen, Vector.set_getElem_self]

/-- On an inactive slot a generator writes nothing (rule R187). -/
theorem exec_generator_inactive {i : Instr} {s : State} {gen : Slot → Slot × Pow2Sum}
    (hexec : exec i s = .next (stepGenerator gen s)) (hinactive : (s.v[s.genSlot.val]).active = false) :
    exec i s = .next s := by
  rw [hexec, stepGenerator_inactive hinactive]

/-! ## The square generator -/

/-- The table `DUTY` at an index kept in its four entries (rules R5, R149). -/
theorem dutyThreshold_min (d : Nat) :
    dutyThreshold (min d 3) = if d = 0 then 1 / 8 else if d = 1 then 1 / 4 else if d = 2 then 1 / 2 else 3 / 4 := by
  match d with
  | 0 | 1 | 2 => rfl
  | d + 3 => rw [Nat.min_eq_right (Nat.le_add_left 3 d)]; rfl

theorem oscSquare_exact (duty : Byte) (v : Slot) :
    oscSquare .exact duty v =
      ({ v with squarePhase := v.squarePhase + v.squarePhaseInc },
        .ofRat (if Int.fract v.squarePhase < dutyThreshold (min duty.toNat 3) then 1 / 2 else -1 / 2)) := rfl

/-- Settles O42: the square generator in exact reals, and the operations that write nothing. -/
theorem squareGeneratorComparesThePhase : Obligations.SquareGeneratorComparesThePhase := by
  intro s
  refine ⟨?_, fun hinactive => ?_, ?_⟩
  · simp only [List.forall_mem_cons]
    exact ⟨rfl, rfl, rfl, List.forall_mem_nil _⟩
  · simp only [List.forall_mem_cons]
    exact ⟨exec_generator_inactive rfl hinactive, exec_generator_inactive rfl hinactive,
      exec_generator_inactive rfl hinactive, exec_generator_inactive rfl hinactive,
      exec_generator_inactive rfl hinactive, List.forall_mem_nil _⟩
  · intro i hi hfp hactive
    have hexec : exec i s = .next (stepGenerator (oscSquare s.platform.params.fp s.genVoice.param) s) := by
      obtain rfl | rfl : i = .voiceSquare1 ∨ i = .voiceSquare2 := by simpa using hi
      · rfl
      · rfl
    rw [hfp] at hexec
    rw [exec_generator hexec hactive (oscSquare_exact _ _), dutyThreshold_min]
    rfl

/-! ## The shift register -/

/-- The bit a clock feeds back: the exclusive or of bits 0 and 1 (rule R152). -/
def feedback (x : BitVec 16) : Bool := x.getLsbD 0 != x.getLsbD 1

/-- The word whose bit 0 is fed back (rule R152). -/
def feedbackWord (x : BitVec 16) : BitVec 16 := (x ^^^ (x >>> 1)) &&& 1

theorem clockRegister_false (x : BitVec 16) : clockRegister false x = (x >>> 1) ||| (feedbackWord x <<< 14) := rfl

theorem clockRegister_true (x : BitVec 16) :
    clockRegister true x = (clockRegister false x &&& ~~~0x0040#16) ||| (feedbackWord x <<< 6) := rfl

theorem feedbackWord_shiftLeft_getLsbD (x : BitVec 16) {i : Nat} (hi : i < 16) (k : Nat) :
    (feedbackWord x <<< k).getLsbD i = (decide (i = k) && feedback x) := by
  rw [BitVec.getLsbD_shiftLeft]
  obtain h | rfl | h := lt_trichotomy i k
  · simp [h, h.ne]
  · simp [hi, feedbackWord, feedback]
  · simp [h.ne', Nat.sub_ne_zero_of_lt h, feedbackWord, BitVec.getLsbD_one]

theorem clockMask_getLsbD : ∀ i < 16, (~~~0x0040#16).getLsbD i = !decide (i = 6) := by decide

/-- In 15-bit mode every bit takes the next higher one, and bit 14 the bit fed back too (rule R152). -/
theorem clockRegister_false_getLsbD (x : BitVec 16) {i : Nat} (hi : i < 16) :
    (clockRegister false x).getLsbD i = (x.getLsbD (i + 1) || (decide (i = 14) && feedback x)) := by
  rw [clockRegister_false, BitVec.getLsbD_or, BitVec.getLsbD_ushiftRight, feedbackWord_shiftLeft_getLsbD x hi,
    Nat.add_comm]

/-- In 7-bit mode bit 6 takes the bit fed back alone (rule R152). -/
theorem clockRegister_true_getLsbD (x : BitVec 16) {i : Nat} (hi : i < 16) :
    (clockRegister true x).getLsbD i = if i = 6 then feedback x else (clockRegister false x).getLsbD i := by
  rw [clockRegister_true, BitVec.getLsbD_or, BitVec.getLsbD_and, clockMask_getLsbD i hi,
    feedbackWord_shiftLeft_getLsbD x hi]
  split
  case isTrue h => simp [h]
  case isFalse h => simp [h]

/-- A register that fed back a 0 and of which each of the bits 1 to `k - 1` moved down as a 0 has no bit below `k`. -/
theorem getLsbD_eq_false_of_clock {x : BitVec 16} {k : Nat} (hk : 1 < k) (hfeed : feedback x = false)
    (hmoved : ∀ i, i + 1 < k → x.getLsbD (i + 1) = false) : ∀ i < k, x.getLsbD i = false := by
  intro i hi
  cases i with
  | zero =>
    have hne : (x.getLsbD 0 != x.getLsbD 1) = false := hfeed
    rwa [hmoved 0 hk, Bool.bne_false] at hne
  | succ i => exact hmoved i hi

/-- If a clock in 15-bit mode empties the register, it was empty. -/
theorem eq_zero_of_clockRegister_false {x : BitVec 16} (h : clockRegister false x = 0#16) : x = 0#16 := by
  have hbit {i : Nat} (hi : i < 16) : (x.getLsbD (i + 1) || (decide (i = 14) && feedback x)) = false := by
    rw [← clockRegister_false_getLsbD x hi, h, BitVec.getLsbD_zero]
  have hfeed : feedback x = false := (Bool.or_eq_false_iff.1 (hbit (i := 14) (by decide))).2
  refine BitVec.eq_of_getLsbD_eq fun i hi => ?_
  rw [getLsbD_eq_false_of_clock (k := 16) (by decide) hfeed (fun j hj => ?_) i hi, BitVec.getLsbD_zero]
  exact (Bool.or_eq_false_iff.1 (hbit (by omega))).1

/-- The low seven bits are all 0. -/
theorem and_lowSeven_eq_zero_iff (x : BitVec 16) : x &&& 0x7F#16 = 0#16 ↔ ∀ i < 7, x.getLsbD i = false := by
  have hmask : ∀ i < 16, (0x7F#16).getLsbD i = decide (i < 7) := by decide
  constructor
  · intro h i hi
    have hbit : (x &&& 0x7F#16).getLsbD i = false := by rw [h, BitVec.getLsbD_zero]
    simpa [hmask i (by omega), hi] using hbit
  · intro h
    refine BitVec.eq_of_getLsbD_eq fun i hi => ?_
    rw [BitVec.getLsbD_and, hmask i hi, BitVec.getLsbD_zero]
    obtain hlow | hhigh := lt_or_ge i 7
    · rw [h i hlow, Bool.false_and]
    · rw [decide_eq_false hhigh.not_gt, Bool.and_false]

/-- If a clock in 7-bit mode empties the low seven bits, they were empty. -/
theorem lowSeven_eq_zero_of_clockRegister_true {x : BitVec 16} (h : clockRegister true x &&& 0x7F#16 = 0#16) :
    x &&& 0x7F#16 = 0#16 := by
  have hclock := (and_lowSeven_eq_zero_iff _).1 h
  have hfeed : feedback x = false := by
    rw [← hclock 6 (by decide), clockRegister_true_getLsbD x (by decide), if_pos rfl]
  refine (and_lowSeven_eq_zero_iff x).2 (getLsbD_eq_false_of_clock (by decide) hfeed fun i hi => ?_)
  have hbit := hclock i (by omega)
  rw [clockRegister_true_getLsbD x (by omega), if_neg (by omega), clockRegister_false_getLsbD x (by omega)] at hbit
  exact (Bool.or_eq_false_iff.1 hbit).1

/-- Settles O44: a clock bit by bit, and backwards from an empty register to an empty one. -/
theorem shiftRegisterNeverEmpties : Obligations.ShiftRegisterNeverEmpties := by
  intro width7 x
  refine ⟨⟨?_, fun i hi => ?_⟩, ?_, ?_, fun _ hx h => hx (eq_zero_of_clockRegister_false h),
    fun _ hx h => hx (lowSeven_eq_zero_of_clockRegister_true h)⟩
  · cases width7 with
    | false => rw [clockRegister_false_getLsbD x (by decide)]; rfl
    | true => rw [clockRegister_true_getLsbD x (by decide), clockRegister_false_getLsbD x (by decide)]; rfl
  · have hlow : (clockRegister false x).getLsbD i = x.getLsbD (i + 1) := by
      rw [clockRegister_false_getLsbD x (by omega), decide_eq_false hi.ne, Bool.false_and, Bool.or_false]
    cases width7 with
    | false => simp [hlow]
    | true =>
      rw [clockRegister_true_getLsbD x (by omega), hlow]
      simp [feedback]
  · have htop : (clockRegister false x).getLsbD 15 = false := by
      rw [clockRegister_false_getLsbD x (by decide), BitVec.getLsbD_of_ge x 16 le_rfl]
      rfl
    cases width7 with
    | false => exact htop
    | true => rw [clockRegister_true_getLsbD x (by decide), if_neg (by decide), htop]
  · cases width7 <;> rfl

/-! ## The noise generator -/

/-- The turns of the loop are the whole intervals in the timer (rule R150). -/
theorem noiseTurns_exact_range {timer interval : Rat} (hi : 0 < interval) (ht : 0 ≤ timer) :
    (noiseTurns .exact timer interval : Rat) * interval ≤ timer ∧
      timer < (noiseTurns .exact timer interval : Rat) * interval + interval := by
  have hturns : noiseTurns .exact timer interval = ⌊timer / interval⌋₊ := rfl
  have hlo : (⌊timer / interval⌋₊ : Rat) ≤ timer / interval := Nat.floor_le (div_nonneg ht hi.le)
  have hhi : timer / interval < ⌊timer / interval⌋₊ + 1 := Nat.lt_floor_add_one _
  rw [le_div_iff₀ hi] at hlo
  rw [div_lt_iff₀ hi] at hhi
  rw [hturns]
  exact ⟨hlo, by linarith⟩

/-- The level of a slot whose register has been clocked `n` times: that of the last clock (rules R151, R152). -/
def levelAfter (polarity : Bool) (v : Slot) (n : Nat) : Byte :=
  if n = 0 then v.noiseOutput
  else noiseLevel polarity (((clockRegister v.noiseWidth7bit)^[n] v.lfsr).getLsbD 0)

theorem noiseLevel_toInt (polarity bit : Bool) : (noiseLevel polarity bit).toInt = if bit = polarity then 64 else -64 := by
  cases polarity <;> cases bit <;> decide

/-- One step of the noise generator in exact reals, in the number of turns of its loop (rule R150). -/
theorem oscNoise_exact (polarity : Bool) {v : Slot} (hi : 0 < v.noiseInterval) (ht : 0 ≤ v.noiseTimer) {n : Nat}
    (hn : n = noiseTurns .exact (v.noiseTimer + 1) v.noiseInterval) :
    oscNoise .exact polarity v =
      ({ v with
          noiseTimer := v.noiseTimer + 1 - n * v.noiseInterval
          lfsr := (clockRegister v.noiseWidth7bit)^[n] v.lfsr
          noiseOutput := levelAfter polarity v n },
        .ofRat (((levelAfter polarity v n).toInt : Rat) / 128)) := by
  have hloop := noiseLoop_exact polarity n { v with noiseTimer := v.noiseTimer + 1 } hi
    (hn ▸ (noiseTurns_exact_range hi (by linarith)).1)
  simp only [oscNoise, Fp.addQ_exact, ← hn, hloop]
  rfl

/-- Settles O43: the number of clocks is the number of turns of the loop. -/
theorem noiseGeneratorClocksByTheTimer : Obligations.NoiseGeneratorClocksByTheTimer := by
  intro s hfp hactive hi ht v
  have hexec : exec .voiceNoise s = .next (stepGenerator (oscNoise .exact s.platform.params.noisePolarity) s) := by
    rw [← hfp]
    rfl
  obtain ⟨hlo, hhi⟩ := noiseTurns_exact_range (timer := v.noiseTimer + 1) hi (by linarith)
  refine ⟨noiseTurns .exact (v.noiseTimer + 1) v.noiseInterval, _, levelAfter s.platform.params.noisePolarity v _, rfl,
    by linarith, by linarith, fun h0 => if_pos h0, fun h0 => ?_, exec_generator hexec hactive (oscNoise_exact _ hi ht rfl)⟩
  rw [levelAfter, if_neg h0, noiseLevel_toInt]

/-! ## Without a sample -/

theorem oscProgWave_silent (fp : Fp) {smp? : Option Sample} (h : ∀ smp, smp? = some smp → smp.numSamples = 0) (v : Slot) :
    oscProgWave fp smp? v = (v, .zero) := by
  cases smp? with
  | none => rfl
  | some smp => exact if_pos (h smp rfl)

theorem oscDirectSound_empty (p : Params) {smp : Sample} (h : smp.numSamples = 0) (v : Slot) :
    oscDirectSound p (some smp) v = (if p.emptyEnds then goOff v else v, .zero) := if_pos h

/-- Settles O47: the silent cases of both generators, and what each can write. -/
theorem sampleGeneratorsAlwaysComplete : Obligations.SampleGeneratorsAlwaysComplete := by
  intro s v hactive smp?
  have hprog : exec .voiceProgwave s = .next (stepGenerator (oscProgWave s.platform.params.fp smp?) s) := rfl
  have hds : exec .voiceDirectsound s = .next (stepGenerator (oscDirectSound s.platform.params smp?) s) := rfl
  refine ⟨fun hsilent => exec_generator_keep hprog hactive (oscProgWave_silent _ hsilent v), fun hnone => ?_,
    fun smp hsmp hempty => ⟨fun hends => ?_, fun hends => ?_⟩,
    ⟨_, _, exec_generator hprog hactive (Prod.ext (oscProgWave_fst _ smp? v) rfl)⟩, ?_⟩
  · rw [hnone] at hds
    exact exec_generator_keep hds hactive rfl
  · refine exec_generator_keep hds hactive ?_
    rw [hsmp, oscDirectSound_empty _ hempty, hends]
    rfl
  · refine exec_generator hds hactive ?_
    rw [hsmp, oscDirectSound_empty _ hempty, hends]
    rfl
  · obtain hrun | ⟨hsilent, hstop⟩ := oscDirectSound_fst s.platform.params smp? v
    · exact ⟨_, _, .inl (exec_generator hds hactive (Prod.ext hrun rfl))⟩
    · exact ⟨_, .zero, .inr (exec_generator hds hactive (Prod.ext hstop hsilent))⟩

end Sys2Proof.Machine
end

section
/-! PROOFS. The generators that read a sample (rules R146 to R148, R153), at rational positions and, for DirectSound, at any
position whose floors the model finds (rule R243). -/

namespace Sys2Proof

theorem Pow2Sum.ofRat_toReal (q : Rat) : (Pow2Sum.ofRat q).toReal = (q : ℝ) := by
  rw [Pow2Sum.ofRat, Pow2Sum.monomial_toReal]
  simp

theorem Pow2Sum.sub_toReal (x y : Pow2Sum) : (x.sub y).toReal = x.toReal - y.toReal := by
  rw [Pow2Sum.sub, Pow2Sum.add_toReal, Pow2Sum.scale_toReal]
  push_cast
  ring

namespace Machine

/-! ## Positions and interpolation in exact reals -/

/-- The remainder of a rational position (rule R12). -/
theorem modNat_ofRat (x : Rat) (n : Nat) :
    Fp.exact.modNat (.ofRat x) n = .ofRat (x - n * ((⌊x / n⌋ : Int) : Rat)) := by
  rw [Fp.modNat_exact, Pow2Sum.ofRat_scale, Pow2Sum.ofRat_floor, Pow2Sum.ofRat_sub, one_div_mul_eq_div]
  rfl

/-- The real number of a remainder, in the quotient that the model found (rule R12). -/
theorem modNat_toReal (pos : Pow2Sum) (n : Nat) :
    (Fp.exact.modNat pos n).toReal = pos.toReal - (n : ℝ) * ((pos.scale (1 / (n : Rat))).floor : ℝ) := by
  rw [Fp.modNat_exact, Pow2Sum.sub_toReal, Pow2Sum.ofRat_toReal]
  push_cast
  rfl

/-- Interpolation at a rational position (rules R146, R153). -/
theorem interpolate_ofRat (x : Rat) (e0 e1 : Byte) :
    interpolate .exact (.ofRat x) e0 e1 =
      .ofRat ((e0.toInt : Rat) / 128 + Int.fract x * ((e1.toInt : Rat) / 128 - (e0.toInt : Rat) / 128)) := by
  have hfrac : Fp.exact.frac (.ofRat x) = .ofRat (Int.fract x) := by
    rw [Fp.frac_exact, Pow2Sum.ofRat_floor, Pow2Sum.ofRat_sub]
    rfl
  rw [interpolate, hfrac, Fp.scale_exact, Pow2Sum.ofRat_scale, Fp.add_exact, Pow2Sum.ofRat_add, mul_comm]
  rfl

/-- Interpolation at a position whose floor the model finds (rules R146, R153, R243). -/
theorem interpolate_toReal {pos : Pow2Sum} (hfloor : pos.floor = ⌊pos.toReal⌋) (e0 e1 : Byte) :
    (interpolate .exact pos e0 e1).toReal =
      (e0.toInt : ℝ) / 128 + Int.fract pos.toReal * ((e1.toInt : ℝ) / 128 - (e0.toInt : ℝ) / 128) := by
  have hlevel (e : Byte) : ((pcmLevel .exact e : Rat) : ℝ) = (e.toInt : ℝ) / 128 := by
    rw [pcmLevel, Fp.divQ_exact]
    push_cast
    rfl
  have hfrac : (Fp.exact.frac pos).toReal = Int.fract pos.toReal := by
    rw [Fp.frac_exact, Pow2Sum.sub_toReal, Pow2Sum.ofRat_toReal, hfloor, Rat.cast_intCast]
    rfl
  rw [interpolate, Fp.scale_exact, Fp.add_exact, Pow2Sum.add_toReal, Pow2Sum.scale_toReal, Pow2Sum.ofRat_toReal, hfrac,
    Fp.subQ_exact, Rat.cast_sub, hlevel, hlevel, mul_comm]

/-- A remainder lies below the divisor (rule R12). -/
theorem remainder_range {K : Type*} [Field K] [LinearOrder K] [IsStrictOrderedRing K] [FloorRing K] (x : K) {n : Nat}
    (hn : 0 < n) : 0 ≤ x - (n : K) * (⌊x / (n : K)⌋ : K) ∧ x - (n : K) * (⌊x / (n : K)⌋ : K) < n := by
  have hpos : (0 : K) < n := Nat.cast_pos.2 hn
  rw [mul_comm]
  exact ⟨Int.sub_floor_div_mul_nonneg x hpos, Int.sub_floor_div_mul_lt x hpos⟩

/-! ## The programmable-wave generator -/

/-- One step on a sample that is not empty, at a rational position and step (rule R153). -/
theorem oscProgWave_ofRat {smp : Sample} (h0 : 0 < smp.numSamples) {q d : Rat} {v : Slot} (hq : v.samplePos = .ofRat q)
    (hd : v.sampleStep = .ofRat d) :
    oscProgWave .exact (some smp) v =
      ({ v with samplePos := .ofRat (q + d) },
        let pos : Rat := q - (smp.numSamples : Rat) * (⌊q / (smp.numSamples : Rat)⌋ : Int)
        interpolate .exact (.ofRat pos) (smp.pcm.getD ⌊pos⌋.toNat 0)
          (smp.pcm.getD ((⌊pos⌋.toNat + 1) % smp.numSamples) 0)) := by
  simp only [oscProgWave, if_neg h0.ne', hq, hd, modNat_ofRat, Fp.add_exact, Pow2Sum.ofRat_add, Fp.floor_exact,
    Pow2Sum.ofRat_floor]
  rfl

/-- Settles O46: the position is a remainder, and the output interpolates at it. -/
theorem progWaveGeneratorCycles : Obligations.ProgWaveGeneratorCycles := by
  intro s smp q d v pos level hactive hsmp hfp h0 hq hd
  have hexec : exec .voiceProgwave s = .next (stepGenerator (oscProgWave .exact (some smp)) s) := by
    rw [← hfp, ← hsmp]
    rfl
  obtain ⟨hlo, hhi⟩ := remainder_range q h0
  refine ⟨hlo, hhi, exec_generator hexec hactive ?_⟩
  rw [oscProgWave_ofRat h0 hq hd]
  dsimp only
  rw [interpolate_ofRat]

/-! ## The DirectSound generator -/

/-- The entry after entry `i` on which interpolation leans, with the default of `DS_EDGE` (rules R146, R147). -/
def dsNext (smp : Sample) (i : Nat) : Byte :=
  if i + 1 < smp.numSamples then smp.pcm.getD (i + 1) 0 else dsEdgeStandard smp i

/-- An entry as a level (rule R146), in whatever numbers. -/
def pcmLevelIn (K : Type*) [Field K] (b : Byte) : K := (b.toInt : K) / 128

/-- The level of the next entry, case by case as rule R147 gives it. -/
theorem dsNext_level {K : Type*} [Field K] (smp : Sample) (i : Nat) :
    pcmLevelIn K (dsNext smp i) =
      if i + 1 < smp.numSamples then pcmLevelIn K (smp.pcm.getD (i + 1) 0)
      else if smp.isLooped = true ∧ smp.loopStart < smp.numSamples then pcmLevelIn K (smp.pcm.getD smp.loopStart 0)
      else pcmLevelIn K (smp.pcm.getD i 0) := by
  simp only [dsNext, dsEdgeStandard, apply_ite (pcmLevelIn K), Bool.and_eq_true, decide_eq_true_eq]

/-- Parameters under which the statements on the DirectSound generator speak: exact reals, default `DS_EDGE`. -/
structure PlainParams (p : Params) : Prop where
  fp : p.fp = .exact
  dsEdge : p.dsEdge = .standard

theorem dsRead_plain {p : Params} (hp : PlainParams p) (smp : Sample) (pos : Pow2Sum) :
    dsRead p smp pos = interpolate .exact pos (smp.pcm.getD pos.floor.toNat 0) (dsNext smp pos.floor.toNat) := by
  simp only [dsRead, hp.fp, dsEdge, hp.dsEdge, Fp.floor_exact, dsNext]

section Advance

variable {p : Params} (hp : PlainParams p) {smp : Sample} (h0 : 0 < smp.numSamples) (v : Slot)
include hp h0

/-- Before the end the generator reads at the new position (rule R146). -/
theorem oscDirectSound_before (hend : (v.samplePos.add v.sampleStep).floor < smp.numSamples) :
    oscDirectSound p (some smp) v =
      ({ v with samplePos := v.samplePos.add v.sampleStep }, dsRead p smp (v.samplePos.add v.sampleStep)) := by
  simp only [oscDirectSound, if_neg h0.ne', hp.fp, Fp.add_exact, if_neg hend.not_ge]

/-- At or past the end of a loop it reads at the wrapped position (rule R148). -/
theorem oscDirectSound_wrap (hend : smp.numSamples ≤ (v.samplePos.add v.sampleStep).floor) (hloop : smp.isLooped = true)
    (hstart : smp.loopStart < smp.numSamples) :
    oscDirectSound p (some smp) v =
      ({ v with samplePos := loopWrap .exact smp (v.samplePos.add v.sampleStep) },
        dsRead p smp (loopWrap .exact smp (v.samplePos.add v.sampleStep))) := by
  simp only [oscDirectSound, if_neg h0.ne', hp.fp, Fp.add_exact, if_pos hend, hloop, hstart, decide_true, Bool.and_self,
    if_true]

/-- At or past the end of any other sample it ends the voice (rule R146). -/
theorem oscDirectSound_end (hend : smp.numSamples ≤ (v.samplePos.add v.sampleStep).floor)
    (hloop : smp.isLooped = false ∨ smp.numSamples ≤ smp.loopStart) :
    oscDirectSound p (some smp) v =
      ({ v with samplePos := v.samplePos.add v.sampleStep, active := false, phase := .off }, .zero) := by
  have hcond : (smp.isLooped && decide (smp.loopStart < smp.numSamples)) = false := by
    obtain h | h := hloop
    · rw [h, Bool.false_and]
    · rw [decide_eq_false h.not_gt, Bool.and_false]
  simp only [oscDirectSound, if_neg h0.ne', hp.fp, Fp.add_exact, if_pos hend, hcond, Bool.false_eq_true, if_false, goOff]

end Advance

section Reading

variable {K : Type*} [Field K] [LinearOrder K] [IsStrictOrderedRing K] [FloorRing K]

/-- The DirectSound output at the position `x` (rule R146). -/
def readAt (smp : Sample) (x : K) : K :=
  pcmLevelIn K (smp.pcm.getD ⌊x⌋.toNat 0) +
    Int.fract x * (pcmLevelIn K (dsNext smp ⌊x⌋.toNat) - pcmLevelIn K (smp.pcm.getD ⌊x⌋.toNat 0))

/-- The position `x` wrapped into the loop (rule R148). -/
def wrapAt (smp : Sample) (x : K) : K :=
  (smp.loopStart : K) + ((x - smp.loopStart) - ((smp.numSamples - smp.loopStart : Nat) : K) *
    (⌊(x - smp.loopStart) / ((smp.numSamples - smp.loopStart : Nat) : K)⌋ : Int))

/-- A wrapped position lies inside the loop (rule R148). -/
theorem wrapAt_range {smp : Sample} (hstart : smp.loopStart < smp.numSamples) (x : K) :
    (smp.loopStart : K) ≤ wrapAt smp x ∧ wrapAt smp x < smp.numSamples := by
  obtain ⟨hlo, hhi⟩ := remainder_range (x - smp.loopStart) (Nat.sub_pos_of_lt hstart)
  have hlen : ((smp.numSamples - smp.loopStart : Nat) : K) = smp.numSamples - smp.loopStart := Nat.cast_sub hstart.le
  rw [wrapAt]
  constructor <;> linarith

theorem dsRead_ofRat {p : Params} (hp : PlainParams p) (smp : Sample) (x : Rat) :
    dsRead p smp (.ofRat x) = .ofRat (readAt smp x) := by
  rw [dsRead_plain hp, interpolate_ofRat, Pow2Sum.ofRat_floor]
  rfl

theorem dsRead_toReal {p : Params} (hp : PlainParams p) (smp : Sample) {pos : Pow2Sum}
    (hfloor : pos.floor = ⌊pos.toReal⌋) : (dsRead p smp pos).toReal = readAt smp pos.toReal := by
  rw [dsRead_plain hp, interpolate_toReal hfloor, hfloor]
  rfl

theorem loopWrap_ofRat (smp : Sample) (x : Rat) : loopWrap .exact smp (.ofRat x) = .ofRat (wrapAt smp x) := by
  rw [loopWrap, Fp.sub_exact, Pow2Sum.ofRat_sub, modNat_ofRat, Fp.add_exact, Pow2Sum.ofRat_add]
  rfl

theorem loopWrap_toReal {smp : Sample} {pos : Pow2Sum}
    (hturns : ((pos.sub (.ofRat smp.loopStart)).scale (1 / ((smp.numSamples - smp.loopStart : Nat) : Rat))).floor =
      ⌊(pos.toReal - (smp.loopStart : ℝ)) / ((smp.numSamples - smp.loopStart : Nat) : ℝ)⌋) :
    (loopWrap .exact smp pos).toReal = wrapAt smp pos.toReal := by
  rw [loopWrap, Fp.sub_exact, Fp.add_exact, Pow2Sum.add_toReal, modNat_toReal, hturns, Pow2Sum.sub_toReal,
    Pow2Sum.ofRat_toReal, Rat.cast_natCast, wrapAt]

end Reading

theorem exec_voiceDirectsound_some {s : State} {smp : Sample}
    (h : sampleOfVoice s.platform (readVoice s.platform (s.v[s.genSlot.val]).voiceRef) = some smp) :
    exec .voiceDirectsound s = .next (stepGenerator (oscDirectSound s.platform.params (some smp)) s) := by
  rw [← h]
  rfl

/-- Settles O45: three cases by the floor of the new position, at a rational position and at any other. -/
theorem directSoundGeneratorInterpolates : Obligations.DirectSoundGeneratorInterpolates := by
  refine ⟨?_, ?_⟩
  · intro s smp q d v p wrapped level next out hactive hsmp hedge hfp h0 hq0 hd0 hq hd
    have hp : PlainParams s.platform.params := ⟨hfp, hedge⟩
    have hexec := exec_voiceDirectsound_some hsmp
    have hpos : v.samplePos.add v.sampleStep = .ofRat p := by rw [hq, hd, Pow2Sum.ofRat_add]
    have hfloor : (v.samplePos.add v.sampleStep).floor = ⌊p⌋ := by rw [hpos, Pow2Sum.ofRat_floor]; rfl
    have hread (x : Rat) : dsRead s.platform.params smp (.ofRat x) = .ofRat (out x) := by
      rw [dsRead_ofRat hp, readAt, dsNext_level]
      rfl
    have hpast (hend : (smp.numSamples : Rat) ≤ p) : smp.numSamples ≤ (v.samplePos.add v.sampleStep).floor := by
      rw [hfloor, Int.le_floor]
      exact hend
    refine ⟨fun hend => ?_, fun hend hloop hstart => ?_, fun hend hloop => ?_⟩
    · have hlt : (v.samplePos.add v.sampleStep).floor < smp.numSamples := by
        rw [hfloor, Int.floor_lt]
        exact hend
      rw [exec_generator hexec hactive (oscDirectSound_before hp h0 v hlt), hpos, hread]
    · obtain ⟨hlo, hhi⟩ := wrapAt_range hstart p
      refine ⟨hlo, hhi, ?_⟩
      rw [exec_generator hexec hactive (oscDirectSound_wrap hp h0 v (hpast hend) hloop hstart), hpos, loopWrap_ofRat, hread]
      rfl
    · rw [exec_generator hexec hactive (oscDirectSound_end hp h0 v (hpast hend) hloop), hpos]
  · intro s smp v pos p len turns wrapped level next out hactive hsmp hedge hfp h0 hp0 hfloor
    have hp : PlainParams s.platform.params := ⟨hfp, hedge⟩
    have hexec := exec_voiceDirectsound_some hsmp
    have hpos : pos.toReal = p := Pow2Sum.add_toReal _ _
    have hread {x : Pow2Sum} (hx : x.floor = ⌊x.toReal⌋) : (dsRead s.platform.params smp x).toReal = out x.toReal := by
      rw [dsRead_toReal hp smp hx, readAt, dsNext_level]
      rfl
    have hpast (hend : (smp.numSamples : ℝ) ≤ p) : smp.numSamples ≤ pos.floor := by
      rw [hfloor, Int.le_floor]
      exact hend
    refine ⟨hpos, fun hend => ?_, fun hend hloop hstart hturns hwrapped => ?_, fun hend hloop => ?_⟩
    · have hlt : pos.floor < smp.numSamples := by
        rw [hfloor, Int.floor_lt]
        exact hend
      refine ⟨_, exec_generator hexec hactive (oscDirectSound_before hp h0 v hlt), ?_⟩
      rw [← hpos]
      exact hread (hpos ▸ hfloor)
    · have hwrap : (loopWrap .exact smp pos).toReal = wrapped := by
        rw [loopWrap_toReal (by rw [hpos]; exact hturns), hpos]
        rfl
      obtain ⟨hlo, hhi⟩ := wrapAt_range hstart p
      refine ⟨hlo, hhi, _, exec_generator hexec hactive (oscDirectSound_wrap hp h0 v (hpast hend) hloop hstart), hwrap, ?_⟩
      rw [← hwrap]
      exact hread (hwrap ▸ hwrapped)
    · exact exec_generator hexec hactive (oscDirectSound_end hp h0 v (hpast hend) hloop)

end Machine

end Sys2Proof
end

section
/-! PROOFS. RENDER between two GBA frame ticks (rules R184, R186): frame by frame, only generators write. -/

namespace Sys2Proof.Machine

/-! ## Between ticks -/

/-- In exact reals the frame tick is due when the accumulator reaches this value (rules R183, R184). -/
theorem samplesPerGbaFrame_exact (rate : Rat) : samplesPerGbaFrame .exact rate = rate / (597275 / 10000) := rfl

theorem sampleTick_between_exact {rate : Rat} {s : State} (hfp : s.platform.params.fp = .exact)
    (h : s.frameAcc + 1 < rate / (597275 / 10000)) : sampleTick rate s = s.withFrameAcc (s.frameAcc + 1) := by
  rw [sampleTick_between (by rw [hfp]; exact h), hfp, Fp.addQ_exact]

theorem sampleTick_due_exact {rate : Rat} {s : State} (hfp : s.platform.params.fp = .exact)
    (h : rate / (597275 / 10000) ≤ s.frameAcc + 1) :
    sampleTick rate s = frameTick rate (s.withFrameAcc (s.frameAcc + 1 - rate / (597275 / 10000))) := by
  rw [sampleTick_due (by rw [hfp]; exact h), hfp, Fp.addQ_exact, Fp.subQ_exact, samplesPerGbaFrame_exact]

theorem sampleTick_platform (rate : Rat) (s : State) : (sampleTick rate s).platform = s.platform := by
  rw [sampleTick_frame]

/-- What generators alone can make of a slot (rules R145, R186): oscillator fields move, the end of a DirectSound voice
clears `active` with `phase` Off, and an inactive slot stays. -/
structure OscillatorsMove (pf : Platform) (v w : Slot) : Prop where
  frame : w =
    { v with
      active := w.active
      phase := w.phase
      samplePos := w.samplePos
      squarePhase := w.squarePhase
      lfsr := w.lfsr
      noiseTimer := w.noiseTimer
      noiseOutput := w.noiseOutput }
  activity : (w.active = v.active ∧ w.phase = v.phase) ∨
    ((readVoice pf v.voiceRef).kind = .directSound ∧ w.active = false ∧ w.phase = .off)
  inactive : v.active = false → w = v

theorem OscillatorsMove.refl (pf : Platform) (v : Slot) : OscillatorsMove pf v v := ⟨rfl, .inl ⟨rfl, rfl⟩, fun _ => rfl⟩

theorem OscillatorsMove.voiceRef {pf : Platform} {v w : Slot} (h : OscillatorsMove pf v w) : w.voiceRef = v.voiceRef := by
  rw [h.frame]

theorem OscillatorsMove.trans {pf : Platform} {u v w : Slot} (h : OscillatorsMove pf u v) (h' : OscillatorsMove pf v w) :
    OscillatorsMove pf u w where
  frame := by
    rw [h'.frame, h.frame]
  activity := by
    obtain ⟨hactive', hphase'⟩ | ⟨hkind', hend'⟩ := h'.activity
    · rw [hactive', hphase']
      exact h.activity
    · rw [h.voiceRef] at hkind'
      exact .inr ⟨hkind', hend'⟩
  inactive := fun hu => by
    have hv : v = u := h.inactive hu
    rw [h'.inactive (hv ▸ hu), hv]

theorem mixVoice_oscillatorsMove (pf : Platform) (chs : Vector Channel 16) (v : Slot) :
    OscillatorsMove pf v (mixVoice pf chs v).1 := by
  cases ha : v.active with
  | false =>
    rw [mixVoice_inactive ha]
    exact .refl pf v
  | true =>
    rw [mixVoice_fst ha]
    exact ⟨osc_frame pf v, osc_active pf v, fun hinactive => absurd ha (by simp [hinactive])⟩

/-- The state `u` is `s` after `n` output frames without a tick (rules R184, R186). -/
structure OnlyOscillators (s : State) (n : Nat) (u : State) : Prop where
  platform : u.platform = s.platform
  frameAcc : u.frameAcc = s.frameAcc + n
  ch : u.ch = s.ch
  slot : ∀ i : Fin 24, OscillatorsMove s.platform s.v[i.val] u.v[i.val]

theorem renderFrame_onlyOscillators {rate : Rat} {s u : State} {n : Nat} (hfp : s.platform.params.fp = .exact)
    (hu : OnlyOscillators s n u) (h : s.frameAcc + (n + 1 : Nat) < rate / (597275 / 10000)) :
    OnlyOscillators s (n + 1) (renderFrame rate u).1 := by
  have hacc : u.frameAcc + 1 = s.frameAcc + (n + 1 : Nat) := by
    rw [hu.frameAcc]
    push_cast
    ring
  have htick : sampleTick rate u = u.withFrameAcc (u.frameAcc + 1) :=
    sampleTick_between_exact (by rw [hu.platform, hfp]) (hacc ▸ h)
  have hframe : (renderFrame rate u).1 = { u.withFrameAcc (u.frameAcc + 1) with v := (renderFrame rate u).1.v } := by
    rw [renderFrame, htick]
    exact mixFrame_frame _
  refine ⟨?_, ?_, ?_, fun i => (hu.slot i).trans ?_⟩
  · rw [renderFrame_platform, hu.platform]
  · rw [hframe, ← hacc]
    rfl
  · rw [hframe, ← hu.ch]
    rfl
  · rw [renderFrame, htick, mixFrame_v, State.withFrameAcc_platform, hu.platform]
    exact mixVoice_oscillatorsMove _ _ _

theorem renderFrames_onlyOscillators {rate : Rat} {s : State} (hfp : s.platform.params.fp = .exact) (n : Nat) :
    ∀ (k : Nat) (u : State), OnlyOscillators s k u → s.frameAcc + (k + n : Nat) < rate / (597275 / 10000) →
      OnlyOscillators s (k + n) (renderFrames rate n u).1 := by
  induction n with
  | zero => exact fun k u hu _ => hu
  | succ n ih =>
    intro k u hu h
    have hle : s.frameAcc + (k + 1 : Nat) ≤ s.frameAcc + (k + (n + 1) : Nat) := by
      push_cast
      linarith [Nat.cast_nonneg (α := Rat) n]
    have hone := renderFrame_onlyOscillators hfp hu (hle.trans_lt h)
    rw [← Nat.succ_add_eq_add_succ] at h ⊢
    exact ih (k + 1) _ hone h

/-- Settles O52: frame by frame, with no tick due before the last. -/
theorem betweenTicksOnlyOscillatorsMove : Obligations.BetweenTicksOnlyOscillatorsMove := by
  intro s t rate n hrate hfp hacc h
  obtain ⟨r, hr, rfl⟩ := execRender_next h
  obtain rfl : rate = r := Option.some.inj (hrate.symm.trans hr)
  have hstart : OnlyOscillators s 0 s := ⟨rfl, by simp, rfl, fun i => .refl _ _⟩
  obtain ⟨-, hframeAcc, hch, hslot⟩ :=
    renderFrames_onlyOscillators hfp n.toNat 0 s hstart (by rw [Nat.zero_add]; exact hacc)
  rw [Nat.zero_add] at hframeAcc
  exact ⟨hframeAcc, hch, fun i => ⟨(hslot i).frame, (hslot i).activity, (hslot i).inactive⟩⟩

end Sys2Proof.Machine
end

section
/-! PROOFS. One output frame of RENDER (rules R184 to R193): the tick slot by slot, and the mix of the voices it leaves. -/

namespace Sys2Proof.Machine

/-! ## The generator of a voice's kind -/

theorem osc_directSound {pf : Platform} {v : Slot} (hk : (readVoice pf v.voiceRef).kind = .directSound) :
    osc pf v = oscDirectSound pf.params (sampleOfVoice pf (readVoice pf v.voiceRef)) v := by
  simp only [osc, hk]

theorem osc_square {pf : Platform} {v : Slot}
    (hk : (readVoice pf v.voiceRef).kind = .square1 ∨ (readVoice pf v.voiceRef).kind = .square2) :
    osc pf v = oscSquare pf.params.fp (readVoice pf v.voiceRef).param v := by
  obtain hk | hk := hk
  · simp only [osc, hk]
  · simp only [osc, hk]

theorem osc_progWave {pf : Platform} {v : Slot} (hk : (readVoice pf v.voiceRef).kind = .progWave) :
    osc pf v = oscProgWave pf.params.fp (sampleOfVoice pf (readVoice pf v.voiceRef)) v := by
  simp only [osc, hk]

theorem osc_noise {pf : Platform} {v : Slot} (hk : (readVoice pf v.voiceRef).kind = .noise) :
    osc pf v = oscNoise pf.params.fp pf.params.noisePolarity v := by
  simp only [osc, hk]

/-- The operation VOICE of a kind runs the generator of that kind (rule R145). -/
theorem exec_voice_of_kind (s : State) (i : Fin 24) (hactive : (s.v[i.val]).active = true) :
    ∀ row ∈ [(Kind.directSound, Instr.voiceDirectsound), (.square1, .voiceSquare1), (.square2, .voiceSquare2),
        (.progWave, .voiceProgwave), (.noise, .voiceNoise)],
      (readVoice s.platform (s.v[i.val]).voiceRef).kind = row.1 →
        exec row.2 { s with genSlot := i } = .next
          { s with
            genSlot := i
            v := s.v.set i.val (osc s.platform s.v[i.val]).1
            genOut := (osc s.platform s.v[i.val]).2 } := by
  simp only [List.forall_mem_cons]
  exact ⟨fun hk => exec_generator rfl hactive (osc_directSound hk).symm,
    fun hk => exec_generator rfl hactive (osc_square (.inl hk)).symm,
    fun hk => exec_generator rfl hactive (osc_square (.inr hk)).symm,
    fun hk => exec_generator rfl hactive (osc_progWave hk).symm,
    fun hk => exec_generator rfl hactive (osc_noise hk).symm, List.forall_mem_nil _⟩

/-! ## The tick on one slot -/

/-- An LFO step writes the countdown, the phase and the output only (rules R201 to R205). -/
theorem lfoStep_settings (m : ModState) : (lfoStep m).modType = m.modType ∧ (lfoStep m).fineTune = m.fineTune := by
  unfold lfoStep
  split
  · exact ⟨rfl, rfl⟩
  · split
    · exact ⟨rfl, rfl⟩
    · exact ⟨rfl, rfl⟩

/-- An envelope step leaves what a pitch update reads of the slot (rules R210, R240). -/
structure SameTuning (v w : Slot) : Prop where
  channel : w.channel = v.channel := by rfl
  note : w.note = v.note := by rfl
  isRhythm : w.isRhythm = v.isRhythm := by rfl
  pitchBend : w.pitchBend = v.pitchBend := by rfl

theorem EnvelopeMove.sameTuning {v w : Slot} (h : EnvelopeMove v w) : SameTuning v w := by
  cases h with
  | hold | stop | off => exact {}

section Tick

variable {pf : Platform} {rate : Rat} {chs : Vector Channel 16} {v : Slot}

theorem tickSlot_inactive (hactive : v.active = false) : tickSlot pf rate chs (mapVec lfoChannel chs) v = v := by
  simp [tickSlot, hactive]

/-- The tick on an active slot, in the ModState of its channel before the tick (rule R185). -/
theorem tickSlot_active (hactive : v.active = true) :
    tickSlot pf rate chs (mapVec lfoChannel chs) v =
      if (envelopeStep (readVoice pf v.voiceRef) v).active = true ∧ (chs[v.channel.val]).modState.modType = 0 ∧
          (lfoStep (chs[v.channel.val]).modState).modM ≠ (chs[v.channel.val]).modState.modM then
        pitchUpdate pf rate (lfoStep (chs[v.channel.val]).modState) (envelopeStep (readVoice pf v.voiceRef) v)
      else envelopeStep (readVoice pf v.voiceRef) v := by
  have hchannel := (envelopeStep_move (readVoice pf v.voiceRef) v).sameTuning.channel
  simp [tickSlot, hactive, hchannel, lfoChannel, ModState.vibrato, (lfoStep_settings _).1, and_assoc]

/-- A slot outside a moving vibrato takes its envelope step only (rules R185, R247). -/
theorem tickSlot_untuned (hactive : v.active = true)
    (h : (envelopeStep (readVoice pf v.voiceRef) v).active = false ∨ (chs[v.channel.val]).modState.modType ≠ 0 ∨
      (lfoStep (chs[v.channel.val]).modState).modM = (chs[v.channel.val]).modState.modM ∨ v.isRhythm = true) :
    tickSlot pf rate chs (mapVec lfoChannel chs) v = envelopeStep (readVoice pf v.voiceRef) v := by
  rw [tickSlot_active hactive]
  split
  case isTrue hvibrato =>
    obtain ⟨hsounds, htype, hmoved⟩ := hvibrato
    obtain hw | hw | hw | hw := h
    · rw [hsounds] at hw
      cases hw
    · exact absurd htype hw
    · exact absurd hw hmoved
    · rw [pitchUpdate_rhythm]
      rw [(envelopeStep_move (readVoice pf v.voiceRef) v).sameTuning.isRhythm, hw]
  case isFalse => rfl

/-- A slot in a moving vibrato is configured at the new offset after its envelope step (rules R185, R240, R241). -/
theorem tickSlot_retuned (hfp : pf.params.fp = .exact) (href : 0 < pf.params.refHz) (hactive : v.active = true)
    (hsounds : (envelopeStep (readVoice pf v.voiceRef) v).active = true)
    (htype : (chs[v.channel.val]).modState.modType = 0)
    (hmoved : (lfoStep (chs[v.channel.val]).modState).modM ≠ (chs[v.channel.val]).modState.modM)
    (hmelodic : v.isRhythm = false) :
    Slot.retuned pf rate (v.note.toNat : Int)
      (v.pitchBend * 256 + ((chs[v.channel.val]).modState.fineTune.toInt : Rat) * 4 +
        16 * ((lfoStep (chs[v.channel.val]).modState).modM.toInt : Rat))
      (envelopeStep (readVoice pf v.voiceRef) v) (tickSlot pf rate chs (mapVec lfoChannel chs) v) := by
  obtain ⟨-, hnote, hrhythm, hbend⟩ := (envelopeStep_move (readVoice pf v.voiceRef) v).sameTuning
  obtain ⟨hsame, hfine⟩ := lfoStep_settings (chs[v.channel.val]).modState
  have htotal : totalOffset pf.params.fp (lfoStep (chs[v.channel.val]).modState) v.pitchBend =
      v.pitchBend * 256 + ((chs[v.channel.val]).modState.fineTune.toInt : Rat) * 4 +
        16 * ((lfoStep (chs[v.channel.val]).modState).modM.toInt : Rat) := by
    rw [hfp, totalOffset_exact, hfine, hsame, if_pos htype]
  have htick : tickSlot pf rate chs (mapVec lfoChannel chs) v =
      configure pf rate (v.note.toNat : Int) (totalOffset pf.params.fp (lfoStep (chs[v.channel.val]).modState) v.pitchBend)
        (envelopeStep (readVoice pf v.voiceRef) v) := by
    rw [tickSlot_active hactive, if_pos ⟨hsounds, htype, hmoved⟩, pitchUpdate, hrhythm, hmelodic, hnote, hbend]
    rfl
  rw [htick, htotal]
  exact configure_retuned hfp href.ne' rate _ _ _

end Tick

/-! ## The mix of one frame -/

/-- The gain of a voice in a frame, in exact reals (rules R188, R189, R192). -/
theorem masterGain_voiceGain_exact (x : Channel) (v : Slot) (out : Pow2Sum) :
    (voiceGain .exact x v out).scale masterGain =
      (out.scale ((v.envelopeVolume : Rat) / (if v.isCgbVoice then 15 else 255) * ((v.velocity.toNat : Rat) / 127)
        * (if x.modState.modType = 1 then ((x.modState.modM.toInt : Rat) + 128) / 128 else 1) * x.volume)).scale
          (1 / 8) := by
  have hmax : (v.envMax : Rat) = if v.isCgbVoice then 15 else 255 := by
    cases hc : v.isCgbVoice <;> simp [Slot.envMax, hc, cgbEnvMax, dsEnvMax]
  rw [voiceGain_exact, hmax]
  simp only [ModState.tremolo, decide_eq_true_eq, Int.cast_add, Int.cast_ofNat]
  rfl

/-- The pan position of a voice in a frame, in exact reals (rule R190). -/
theorem panPosition_exact (x : Channel) (v : Slot) :
    panPosition .exact x v =
      if x.modState.modType = 2 then min (max (v.pan + (x.modState.modM.toInt : Rat) / 256) 0) 1 else v.pan := by
  simp only [panPosition, ModState.autoPan, decide_eq_true_eq]
  rfl

/-- What slot `i` adds to a frame from the state `u`, if it is active (rule R187). -/
def contribution (u : State) (i : Fin 24) : Contribution :=
  let v := u.v[i.val]
  let x := u.ch[v.channel.val]
  ⟨voiceGain u.platform.params.fp x v (osc u.platform v).2, panPosition u.platform.params.fp x v⟩

/-- The active slots, in slot order. -/
def soundingSlots (u : State) : List (Fin 24) := (List.finRange 24).filter fun i => (u.v[i.val]).active

/-- In exact reals a frame is a pair of clipped sums, one term for each active slot (rules R187 to R192). -/
theorem mixFrame_exact {u : State} (hfp : u.platform.params.fp = .exact) :
    (mixFrame u).2 =
      ⟨.clip ((soundingSlots u).map fun i => leftTerm (contribution u i)),
        .clip ((soundingSlots u).map fun i => rightTerm (contribution u i))⟩ := by
  have hmixed : (mixFrame u).2 = masterFrame u.platform.params.fp ((soundingSlots u).map (contribution u)) :=
    congrArg (masterFrame _) (mixed_contributions _ _ _)
  rw [hmixed, hfp]
  simp only [masterFrame, List.map_map]
  rfl

/-- One output frame of RENDER: the tick, then the mix (rules R180, R193). -/
theorem exec_render_one {s : State} {rate : Rat} (hrate : s.sampleRate = some rate) :
    exec (.render 1) s = .next
      { sampleTick rate s with
        v := (mixFrame (sampleTick rate s)).1.v
        audio := s.audio ++ [(mixFrame (sampleTick rate s)).2] } := by
  have haudio : (sampleTick rate s).audio = s.audio := by rw [sampleTick_frame]
  have hexec : exec (.render 1) s = .next (renderState rate 1 s) := by simp [exec, execRender, hrate]
  rw [hexec, ← haudio]
  rfl

/-- Settles O54: the generator by the kind of the record, the tick slot by slot, and the mix of what it leaves. -/
theorem oneVoiceIsMixedByItsGains : Obligations.OneVoiceIsMixedByItsGains := by
  refine ⟨exec_voice_of_kind, fun s rate hrate hfp => ?_⟩
  have hpf := sampleTick_platform rate s
  refine ⟨sampleTick rate s, (mixFrame (sampleTick rate s)).1.v, (mixFrame (sampleTick rate s)).2,
    sampleTick_between_exact hfp, fun hdue => ?_, exec_render_one hrate, fun i => ?_, ?_⟩
  · rw [sampleTick_due_exact hfp hdue]
    refine ⟨frameTick_frame _ _, frameTick_ch _ _, fun i => ?_⟩
    rw [frameTick_v]
    exact ⟨tickSlot_inactive, fun hactive => ⟨tickSlot_untuned hactive, fun hsounds htype hmoved hmelodic href =>
      tickSlot_retuned hfp href hactive hsounds htype hmoved hmelodic⟩⟩
  · rw [mixFrame_v, hpf]
    cases hactive : ((sampleTick rate s).v[i.val]).active with
    | false =>
      rw [mixVoice_inactive hactive]
      rfl
    | true =>
      rw [mixVoice_fst hactive]
      rfl
  · rw [mixFrame_exact (by rw [hpf, hfp])]
    simp only [leftTerm, rightTerm, contribution, hpf, hfp, masterGain_voiceGain_exact, panPosition_exact]
    exact ⟨rfl, rfl⟩

end Sys2Proof.Machine
end

section
/-! PROOFS. The allocator (rules R163, R172, R173) and the voice that a NOTE_ON starts (rules R162 to R171): its identity,
its envelope, its oscillator. -/

namespace Sys2Proof.Machine

/-! ## The allocator -/

/-- Slot `i` meets `p` with the lowest key among those that do, and is the first of its equals (rule R173). -/
def IsLowest (pool : Vector Slot 24) (p : Slot → Prop) (key : Slot → Int) (i : Fin 24) : Prop :=
  p pool[i.val] ∧ ∀ j : Fin 24, p pool[j.val] →
    key pool[i.val] ≤ key pool[j.val] ∧ (j < i → key pool[i.val] < key pool[j.val])

section Steal

variable {pool : Vector Slot 24}

/-- An arm of the allocator that has a candidate decides, whatever the later arms find. -/
theorem lowestSlot_or_found {p : Slot → Prop} {cand : Slot → Bool} {key : Slot → Int} {later : Option (Fin 24)}
    (hcand : ∀ j : Fin 24, cand pool[j.val] = true ↔ p pool[j.val]) (h : ∃ j : Fin 24, p pool[j.val]) :
    IsLowest pool p key (((lowestSlot pool cand key).or later).getD 0) := by
  cases hfound : lowestSlot pool cand key with
  | none =>
    obtain ⟨j, hj⟩ := h
    have hnot := lowestSlot_none hfound j
    rw [(hcand j).2 hj] at hnot
    cases hnot
  | some i =>
    obtain ⟨hi, hmin⟩ := lowestSlot_some hfound
    exact ⟨(hcand i).1 hi, fun j hj => hmin j ((hcand j).2 hj)⟩

/-- An arm of the allocator without a candidate leaves the choice to the later arms. -/
theorem lowestSlot_or_none {cand : Slot → Bool} {key : Slot → Int} {later : Option (Fin 24)}
    (h : ∀ j : Fin 24, cand pool[j.val] = false) : (lowestSlot pool cand key).or later = later := by
  cases hfound : lowestSlot pool cand key with
  | none => rfl
  | some i =>
    have hi := (lowestSlot_some hfound).1
    rw [h i] at hi
    cases hi

theorem steal_inactive (h : ∃ j : Fin 24, (pool[j.val]).active = false) :
    IsLowest pool (fun v => v.active = false) (fun _ => 0) (steal pool) :=
  lowestSlot_or_found (by simp) h

section AllActive

variable (hactive : ∀ j : Fin 24, (pool[j.val]).active = true)
include hactive

theorem steal_echo (h : ∃ j : Fin 24, (pool[j.val]).phase = .echo) :
    IsLowest pool (fun v => v.phase = .echo) Slot.envelopeVolume (steal pool) := by
  rw [steal, lowestSlot_or_none (by simp [hactive])]
  exact lowestSlot_or_found (by simp [hactive]) h

variable (hecho : ∀ j : Fin 24, (pool[j.val]).phase ≠ .echo)
include hecho

theorem steal_release (h : ∃ j : Fin 24, (pool[j.val]).phase = .release) :
    IsLowest pool (fun v => v.phase = .release) Slot.envelopeVolume (steal pool) := by
  rw [steal, lowestSlot_or_none (by simp [hactive]), lowestSlot_or_none (by simp [hecho])]
  exact lowestSlot_or_found (by simp [hactive]) h

variable (hrelease : ∀ j : Fin 24, (pool[j.val]).phase ≠ .release)
include hrelease

theorem steal_notAttack (h : ∃ j : Fin 24, (pool[j.val]).phase ≠ .attack) :
    IsLowest pool (fun v => v.phase ≠ .attack) Slot.envelopeVolume (steal pool) := by
  rw [steal, lowestSlot_or_none (by simp [hactive]), lowestSlot_or_none (by simp [hecho]),
    lowestSlot_or_none (by simp [hrelease])]
  exact lowestSlot_or_found (by simp [hactive]) h

end AllActive

theorem steal_attack (hactive : ∀ j : Fin 24, (pool[j.val]).active = true)
    (hattack : ∀ j : Fin 24, (pool[j.val]).phase = .attack) :
    IsLowest pool (fun _ => True) (fun v => (v.triggerOrder.toNat : Int)) (steal pool) := by
  rw [steal, lowestSlot_or_none (by simp [hactive]), lowestSlot_or_none (by simp [hattack]),
    lowestSlot_or_none (by simp [hattack]), lowestSlot_or_none (by simp [hattack]),
    ← Option.or_none (o := lowestSlot pool (fun _ => true) _)]
  exact lowestSlot_or_found (by simp) ⟨0, trivial⟩

end Steal

/-- Settles O28: one lemma per arm of rule R172; ties are the walk's (rule R173). -/
theorem allocatorPicksByPhaseVolumeAndAge : Obligations.AllocatorPicksByPhaseVolumeAndAge := by
  intro pool
  refine ⟨fun hinactive => ?_, fun hactive => ⟨steal_echo hactive, fun hecho => ⟨steal_release hactive hecho,
    fun hrelease => ⟨steal_notAttack hactive hecho hrelease, fun hattack j => ?_⟩⟩⟩⟩
  · obtain ⟨hfree, hfirst⟩ := steal_inactive hinactive
    refine ⟨hfree, fun j hj => ?_⟩
    by_contra hactive
    exact lt_irrefl _ ((hfirst j (by simpa using hactive)).2 hj)
  · obtain ⟨hle, hlt⟩ := (steal_attack hactive hattack).2 j trivial
    exact ⟨BitVec.le_def.2 (Int.ofNat_le.1 hle), fun hj => BitVec.lt_def.2 (Int.ofNat_lt.1 (hlt hj))⟩

/-! ## The slot of a new note -/

theorem envelopeStep_attack {v : Slot} (hp : v.phase = .attack) (vo : Voice) :
    envelopeStep vo v = if v.isCgbVoice then cgbAttack vo v else dsAttack vo v := by
  simp only [envelopeStep, hp]

theorem immediateStep_of_ne_attack {v : Slot} (hp : v.phase ≠ .attack) (vo : Voice) : immediateStep vo v = v := if_neg hp

/-- The immediate step is one step of Attack, of the slot's class (rule R170). -/
theorem immediateStep_attack {v : Slot} (hp : v.phase = .attack) (vo : Voice) :
    immediateStep vo v = if v.isCgbVoice then cgbAttack vo v else dsAttack vo v :=
  (if_pos hp).trans (envelopeStep_attack hp vo)

/-- The immediate step writes the phase, the volume and the counter at most (rule R170). -/
theorem immediateStep_writes (vo : Voice) (v : Slot) :
    ∃ p vol count, immediateStep vo v = { v with phase := p, envelopeVolume := vol, envelopeCounter := count } := by
  by_cases hp : v.phase = .attack
  · rw [immediateStep_attack hp]
    split
    · unfold cgbAttack cgbEnterDecay
      split
      · exact ⟨_, _, _, rfl⟩
      · split
        · split
          · exact ⟨_, _, _, rfl⟩
          · exact ⟨_, _, _, rfl⟩
        · exact ⟨_, _, _, rfl⟩
    · unfold dsAttack
      split
      · exact ⟨_, _, _, rfl⟩
      · exact ⟨_, _, _, rfl⟩
  · exact ⟨_, _, _, immediateStep_of_ne_attack hp vo⟩

section NewVoice

variable (pf : Platform) (rate : Rat) (r : Bool) (c : Fin 16) (note vel : BitVec 7) (ref : Word32) (order : BitVec 64)
  (x : Channel) (vo : Voice) (v : Slot)

/-- The slot of a new note is the tuned slot with another envelope state (rule R170). -/
theorem startVoice_writes :
    ∃ p vol count, startVoice pf rate r c note vel ref order x vo v =
      { tunedSlot pf rate r c note vel ref order x vo v with
        phase := p, envelopeVolume := vol, envelopeCounter := count } :=
  immediateStep_writes vo _

/-- The copies that a new voice takes from the command, the counter and the channel (rule R165). -/
structure StartedCopies (w : Slot) : Prop where
  velocity : w.velocity = vel
  triggerOrder : w.triggerOrder = order
  pseudoEchoVol : w.pseudoEchoVol = x.modState.pseudoEchoVol
  pseudoEchoLen : w.pseudoEchoLen = (x.modState.pseudoEchoLen.toNat : Int)

theorem startVoice_copies : StartedCopies vel order x (startVoice pf rate r c note vel ref order x vo v) := by
  obtain ⟨_, _, _, _, _, -, henvelope⟩ :=
    startEnvelope_frame vo (startPan pf.params.fp x vo (startIdentity r c note vel ref order x vo v))
  obtain ⟨_, _, _, hstep⟩ := startVoice_writes pf rate r c note vel ref order x vo v
  rw [hstep, tunedSlot, startTuning, configure_frame, preparedSlot, henvelope]
  exact ⟨rfl, rfl, rfl, rfl⟩

end NewVoice

theorem kindIsCgb_iff (k : Kind) : kindIsCgb k = true ↔ k ∈ [Kind.square1, .square2, .progWave, .noise] := by
  cases k <;> decide

/-- A sounding voice of the channel and note is retired, any other slot stays as it is (rule R162). -/
theorem retireNote_eq {ch : Byte} {c : Fin 16} (hch : ch.toNat = c.val) (note : BitVec 7) (v : Slot) :
    retireNote ch note v =
      if v.active = true ∧ v.channel = c ∧ v.note = note then { v with active := false, phase := .off } else v := by
  simp only [retireNote, sounds_iff hch, goOff]

/-- NOTE_ON with a rate, a channel and a well-formed leaf record starts a note (rules R161, R171). -/
theorem exec_noteOn {s : State} {rate : Rat} {ch : Byte} {c : Fin 16} {ref : Word32} (hrate : s.sampleRate = some rate)
    (hch : ch.toNat = c.val) (hk : kindSounds (readVoice s.platform ref).kind = true)
    (hwf : (readVoice s.platform ref).wellFormed = true) (r : Bool) (note vel : BitVec 7) :
    exec (.noteOn r ch note vel ref) s =
      .next (startNote rate r c ch note vel ref (readVoice s.platform ref) s) := by
  simp only [exec, execNoteOn, hrate, channelOf_some hch, hk, hwf, if_true]

/-- Settles O24: the slots are those of `startNote_v`, the identity and the copies those of the started slot. -/
theorem noteOnStartsTheVoice : Obligations.NoteOnStartsTheVoice := by
  intro s rate r ch c note vel ref hrate hch hk hwf
  have hother (i : Fin 24) (hi : i ≠ steal (mapVec (retireNote ch note) s.v)) :
      (startNote rate r c ch note vel ref (readVoice s.platform ref) s).v[i.val] =
        (mapVec (retireNote ch note) s.v)[i.val] := by
    rw [startNote_v, if_neg (Ne.symm hi), getElem_mapVec]
  refine ⟨mapVec (retireNote ch note) s.v, (startNote rate r c ch note vel ref (readVoice s.platform ref) s).v,
    exec_noteOn hrate hch hk hwf r note vel, fun i => ?_, hother, ?_⟩
  · rw [getElem_mapVec, retireNote_eq hch]
  · have hnew :
        (startNote rate r c ch note vel ref (readVoice s.platform ref) s).v[(steal (mapVec (retireNote ch note) s.v)).val] =
          startVoice s.platform rate r c note vel ref (s.triggerCounter + 1) s.ch[c.val] (readVoice s.platform ref)
            (mapVec (retireNote ch note) s.v)[(steal (mapVec (retireNote ch note) s.v)).val] := by
      rw [startNote_v, if_pos rfl, getElem_mapVec]
    obtain ⟨hactive, -, hchannel, hnote, href, hrhythm, hclass, hbend, -⟩ :=
      startVoice_started s.platform rate r c note vel ref (s.triggerCounter + 1) s.ch[c.val] (readVoice s.platform ref)
        (mapVec (retireNote ch note) s.v)[(steal (mapVec (retireNote ch note) s.v)).val]
    obtain ⟨hvelocity, horder, hechoVol, hechoLen⟩ :=
      startVoice_copies s.platform rate r c note vel ref (s.triggerCounter + 1) s.ch[c.val] (readVoice s.platform ref)
        (mapVec (retireNote ch note) s.v)[(steal (mapVec (retireNote ch note) s.v)).val]
    rw [hnew]
    exact ⟨rfl, hactive, hchannel, hnote, hvelocity, href, hrhythm, horder, hbend, hechoVol, hechoLen,
      by rw [hclass, kindIsCgb_iff]⟩

/-! ## Its envelope -/

/-- The envelope fields of a slot have these values. -/
structure EnvelopeIs (v : Slot) (cgb : Bool) (phase : Phase) (vol count goal sus : Int) : Prop where
  isCgbVoice : v.isCgbVoice = cgb
  phase : v.phase = phase
  volume : v.envelopeVolume = vol
  counter : v.envelopeCounter = count
  goal : v.envelopeGoal = goal
  sustainGoal : v.sustainGoal = sus

theorem sustainGoal_eq (vo : Voice) :
    sar (15 * (vo.sustain.toNat : Int) + 15) 4 = (15 * (vo.sustain.toNat : Int) + 15) / 16 := by
  rw [sar_eq]
  norm_num

section FirstStep

variable {vo : Voice} {v : Slot}

/-- Rule R167 for a DirectSound voice. -/
theorem startEnvelope_directSound (hc : v.isCgbVoice = false) : EnvelopeIs (startEnvelope vo v) false .attack 0 0 15 0 := by
  rw [startEnvelope, if_neg (by simp [hc])]
  exact ⟨hc, rfl, rfl, rfl, rfl, rfl⟩

/-- Rule R167 for a CGB voice without an attack. -/
theorem startEnvelope_cgb_instant (hc : v.isCgbVoice = true) (ha : vo.attack = 0) :
    EnvelopeIs (startEnvelope vo v) true .decay 15 (vo.decay.toNat : Int) 15 ((15 * (vo.sustain.toNat : Int) + 15) / 16) := by
  rw [startEnvelope, if_pos hc, if_pos ha]
  exact ⟨hc, rfl, rfl, rfl, rfl, sustainGoal_eq vo⟩

/-- Rule R167 for a CGB voice with an attack. -/
theorem startEnvelope_cgb_attack (hc : v.isCgbVoice = true) (ha : vo.attack ≠ 0) :
    EnvelopeIs (startEnvelope vo v) true .attack 0 (vo.attack.toNat : Int) 15 ((15 * (vo.sustain.toNat : Int) + 15) / 16) := by
  rw [startEnvelope, if_pos hc, if_neg ha]
  exact ⟨hc, rfl, rfl, rfl, rfl, sustainGoal_eq vo⟩

/-- Rule R170 for a DirectSound voice: the first step reaches `min(attack, 255)`, and Decay if that is 255. -/
theorem EnvelopeIs.first_directSound (h : EnvelopeIs v false .attack 0 0 15 0) :
    EnvelopeIs (immediateStep vo v) false (if vo.attack.toNat = 255 then .decay else .attack)
      (min (vo.attack.toNat : Int) 255) 0 15 0 := by
  obtain ⟨hc, hp, hvol, hcount, hgoal, hsus⟩ := h
  have hle : (vo.attack.toNat : Int) ≤ 255 := by have := vo.attack.isLt; omega
  rw [immediateStep_attack hp, if_neg (by simp [hc]), dsAttack, hvol, zero_add]
  by_cases hmax : vo.attack.toNat = 255
  · rw [if_pos (by omega), if_pos hmax]
    exact ⟨hc, rfl, by simp [hmax], hcount, hgoal, hsus⟩
  · rw [if_neg (by omega), if_neg hmax]
    exact ⟨hc, hp, (min_eq_left hle).symm, hcount, hgoal, hsus⟩

/-- Rule R170 for a CGB voice in Decay: no step. -/
theorem EnvelopeIs.first_decay {vol count goal sus : Int} (h : EnvelopeIs v true .decay vol count goal sus) :
    EnvelopeIs (immediateStep vo v) true .decay vol count goal sus := by
  rwa [immediateStep_of_ne_attack (by simp [h.phase])]

/-- Rule R170 for a CGB voice with `attack = 1`: the counter runs out at once. -/
theorem EnvelopeIs.first_rise {sus : Int} (ha : vo.attack.toNat = 1)
    (h : EnvelopeIs v true .attack 0 (vo.attack.toNat : Int) 15 sus) :
    EnvelopeIs (immediateStep vo v) true .attack 1 1 15 sus := by
  obtain ⟨hc, hp, hvol, hcount, hgoal, hsus⟩ := h
  have hne : vo.attack ≠ 0 := fun h0 => by simp [h0] at ha
  rw [immediateStep_attack hp, if_pos hc, cgbAttack, if_neg hne, if_pos (by omega), if_neg (by omega), hvol, ha]
  exact ⟨hc, hp, rfl, rfl, hgoal, hsus⟩

/-- Rule R170 for a CGB voice with `attack >= 2`: the counter counts down once. -/
theorem EnvelopeIs.first_count {sus : Int} (ha : 2 ≤ vo.attack.toNat)
    (h : EnvelopeIs v true .attack 0 (vo.attack.toNat : Int) 15 sus) :
    EnvelopeIs (immediateStep vo v) true .attack 0 ((vo.attack.toNat : Int) - 1) 15 sus := by
  obtain ⟨hc, hp, hvol, hcount, hgoal, hsus⟩ := h
  have hne : vo.attack ≠ 0 := fun h0 => by simp [h0] at ha
  rw [immediateStep_attack hp, if_pos hc, cgbAttack, if_neg hne, if_neg (by omega), hcount]
  exact ⟨hc, hp, hvol, rfl, hgoal, hsus⟩

end FirstStep

section NewEnvelope

variable (pf : Platform) (rate : Rat) (r : Bool) (c : Fin 16) (note vel : BitVec 7) (ref : Word32) (order : BitVec 64)
  (x : Channel) {vo : Voice} (v : Slot)

/-- Oscillator and tuning leave the envelope that a new note starts with (rules R167 to R169). -/
theorem tunedSlot_envelope {cgb : Bool} {phase : Phase} {vol count goal sus : Int}
    (h : ∀ u : Slot, u.isCgbVoice = kindIsCgb vo.kind → EnvelopeIs (startEnvelope vo u) cgb phase vol count goal sus) :
    EnvelopeIs (tunedSlot pf rate r c note vel ref order x vo v) cgb phase vol count goal sus := by
  obtain ⟨hc, hp, hvol, hcount, hgoal, hsus⟩ :=
    h (startPan pf.params.fp x vo (startIdentity r c note vel ref order x vo v)) rfl
  rw [tunedSlot, startTuning, configure_frame]
  exact ⟨hc, hp, hvol, hcount, hgoal, hsus⟩

theorem startVoice_envelope_directSound (hk : kindIsCgb vo.kind = false) :
    EnvelopeIs (startVoice pf rate r c note vel ref order x vo v) false
      (if vo.attack.toNat = 255 then .decay else .attack) (min (vo.attack.toNat : Int) 255) 0 15 0 :=
  (tunedSlot_envelope pf rate r c note vel ref order x v fun _ hu =>
    startEnvelope_directSound (hu.trans hk)).first_directSound

theorem startVoice_envelope_instant (hk : kindIsCgb vo.kind = true) (ha : vo.attack = 0) :
    EnvelopeIs (startVoice pf rate r c note vel ref order x vo v) true .decay 15 (vo.decay.toNat : Int) 15
      ((15 * (vo.sustain.toNat : Int) + 15) / 16) :=
  (tunedSlot_envelope pf rate r c note vel ref order x v fun _ hu =>
    startEnvelope_cgb_instant (hu.trans hk) ha).first_decay

theorem tunedSlot_envelope_attack (hk : kindIsCgb vo.kind = true) (ha : vo.attack ≠ 0) :
    EnvelopeIs (tunedSlot pf rate r c note vel ref order x vo v) true .attack 0 (vo.attack.toNat : Int) 15
      ((15 * (vo.sustain.toNat : Int) + 15) / 16) :=
  tunedSlot_envelope pf rate r c note vel ref order x v fun _ hu => startEnvelope_cgb_attack (hu.trans hk) ha

end NewEnvelope

/-- Settles O26: the start of rule R167, then the one step of rule R170, by the class and the attack. -/
theorem newVoiceHasTakenItsFirstEnvelopeStep : Obligations.NewVoiceHasTakenItsFirstEnvelopeStep := by
  intro pf rate r c note vel ref order x v
  dsimp only
  generalize readVoice pf ref = vo
  refine ⟨fun hds => ?_, fun hcgb => ?_⟩
  · obtain ⟨-, hphase, hvol, hcount, hgoal, hsus⟩ :=
      startVoice_envelope_directSound pf rate r c note vel ref order x v hds
    refine ⟨hgoal, hsus, hcount, hvol, ?_⟩
    rw [hphase]
    split
    case isTrue hmax => simp [hmax]
    case isFalse hmax => simp [hmax]
  · by_cases ha : vo.attack = 0
    · obtain ⟨-, hphase, hvol, hcount, hgoal, hsus⟩ :=
        startVoice_envelope_instant pf rate r c note vel ref order x v hcgb ha
      have hzero : vo.attack.toNat = 0 := congrArg BitVec.toNat ha
      exact ⟨hgoal, hsus, fun _ => ⟨hphase, hvol, hcount⟩, fun hone => by omega, fun htwo => by omega⟩
    · have hstart := tunedSlot_envelope_attack pf rate r c note vel ref order x v hcgb ha
      have hpos : vo.attack.toNat ≠ 0 := fun hzero => ha (BitVec.eq_of_toNat_eq hzero)
      by_cases hone : vo.attack.toNat = 1
      · obtain ⟨-, hphase, hvol, hcount, hgoal, hsus⟩ := hstart.first_rise hone
        exact ⟨hgoal, hsus, fun hzero => absurd hzero hpos, fun _ => ⟨hphase, hvol, hcount⟩, fun htwo => by omega⟩
      · obtain ⟨-, hphase, hvol, hcount, hgoal, hsus⟩ := hstart.first_count (by omega)
        exact ⟨hgoal, hsus, fun hzero => absurd hzero hpos, fun h => absurd h hone, fun _ => ⟨hphase, hvol, hcount⟩⟩

/-! ## Its oscillator -/

/-- A retuning does not look at the envelope, so it may be changed before as after. -/
theorem Slot.retuned_envelope {pf : Platform} {rate : Rat} {key : Int} {total : Rat} {v w : Slot}
    (h : Slot.retuned pf rate key total v w) (p : Phase) (vol count : Int) :
    Slot.retuned pf rate key total { v with phase := p, envelopeVolume := vol, envelopeCounter := count }
      { w with phase := p, envelopeVolume := vol, envelopeCounter := count } := by
  unfold Slot.retuned at h ⊢
  dsimp only at h ⊢
  cases hk : (readVoice pf v.voiceRef).kind with
  | directSound | progWave =>
    simp only [hk] at h
    obtain ⟨step, rfl, hstep⟩ := h
    exact ⟨step, rfl, hstep⟩
  | square1 | square2 | noise | empty | keysplit | keysplitAll =>
    simp only [hk] at h
    subst h
    rfl

/-- The slot with its three steps 0, as tuning finds it (rules R169, R249). -/
def Slot.withoutSteps (v : Slot) : Slot := { v with sampleStep := .zero, squarePhaseInc := 0, noiseInterval := 0 }

theorem configure_withoutSteps (pf : Platform) (rate : Rat) (key : Int) (total : Rat) (v : Slot) :
    (configure pf rate key total v.withoutSteps).withoutSteps = v.withoutSteps := by
  rw [configure_frame]
  rfl

theorem startTuning_eq (pf : Platform) (rate : Rat) (vo : Voice) (v : Slot) :
    startTuning pf rate vo v =
      configure pf rate (if v.isRhythm then (vo.baseMidiKey.toNat : Int) else (v.note.toNat : Int)) 0 v.withoutSteps := rfl

section NewOscillator

variable (pf : Platform) (rate : Rat) (r : Bool) (c : Fin 16) (note vel : BitVec 7) (ref : Word32) (order : BitVec 64)
  (x : Channel) (vo : Voice) (v : Slot)

/-- The oscillator state of rule R168. -/
structure StartedOscillator (w : Slot) : Prop where
  samplePos : w.samplePos = .zero
  squarePhase : w.squarePhase = 0
  noiseTimer : w.noiseTimer = 0
  noiseWidth7bit : w.noiseWidth7bit = decide (vo.kind = .noise ∧ vo.param ≠ 0)
  lfsr : w.lfsr = if w.noiseWidth7bit then pf.params.lfsrSeed7 else pf.params.lfsrSeed15
  noiseOutput : w.noiseOutput = noiseLevel pf.params.noisePolarity (w.lfsr.getLsbD 0)

theorem startOscillator_started (u : Slot) : StartedOscillator pf vo (startOscillator pf.params vo u) where
  samplePos := rfl
  squarePhase := rfl
  noiseTimer := rfl
  noiseWidth7bit := by simp [startOscillator]
  lfsr := rfl
  noiseOutput := rfl

theorem startVoice_oscillator :
    StartedOscillator pf vo (startVoice pf rate r c note vel ref order x vo v) := by
  obtain ⟨hpos, hphase, htimer, hwidth, hlfsr, hlevel⟩ :=
    startOscillator_started pf vo
      (startEnvelope vo (startPan pf.params.fp x vo (startIdentity r c note vel ref order x vo v)))
  obtain ⟨_, _, _, hstep⟩ := startVoice_writes pf rate r c note vel ref order x vo v
  rw [hstep, tunedSlot, startTuning, configure_frame]
  exact ⟨hpos, hphase, htimer, hwidth, hlfsr, hlevel⟩

/-- Tuning is a configuration at zero offset for the tuning key, from steps 0 (rules R169, R249). -/
theorem tunedSlot_eq :
    tunedSlot pf rate r c note vel ref order x vo v =
      configure pf rate (if r then (vo.baseMidiKey.toNat : Int) else (note.toNat : Int)) 0
        (preparedSlot pf r c note vel ref order x vo v).withoutSteps := by
  have hprepared := preparedSlot_started pf r c note vel ref order x vo v
  rw [tunedSlot, startTuning_eq, hprepared.isRhythm, hprepared.note]

/-- A new voice is retuned at zero offset for its tuning key, from steps 0 (rules R169, R249). -/
theorem startVoice_retuned (hfp : pf.params.fp = .exact) (href : pf.params.refHz ≠ 0) :
    Slot.retuned pf rate (if r then (vo.baseMidiKey.toNat : Int) else (note.toNat : Int)) 0
      (startVoice pf rate r c note vel ref order x vo v).withoutSteps
      (startVoice pf rate r c note vel ref order x vo v) := by
  have htuned : Slot.retuned pf rate (if r then (vo.baseMidiKey.toNat : Int) else (note.toNat : Int)) 0
      (tunedSlot pf rate r c note vel ref order x vo v).withoutSteps
      (tunedSlot pf rate r c note vel ref order x vo v) := by
    rw [tunedSlot_eq, configure_withoutSteps]
    exact configure_retuned hfp href rate _ 0 _
  obtain ⟨p, vol, count, hstep⟩ := startVoice_writes pf rate r c note vel ref order x vo v
  rw [hstep]
  exact Slot.retuned_envelope htuned p vol count

end NewOscillator

/-- The pan position of a voice record, in exact reals (rule R166). -/
theorem voicePan_exact (vo : Voice) : voicePan .exact vo = if vo.pan = 0 then 1 / 2 else (vo.pan.toInt : Rat) / 127 := rfl

/-- Settles O27: the oscillator of rule R168, the retuning of rule R169, the pan of rule R166. -/
theorem newVoiceStartsItsOscillator : Obligations.NewVoiceStartsItsOscillator := by
  intro pf rate r c note vel ref order x v vo w key hfp href _
  obtain ⟨hpos, hphase, htimer, hwidth, hlfsr, hlevel⟩ := startVoice_oscillator pf rate r c note vel ref order x vo v
  have hpan := (startVoice_started pf rate r c note vel ref order x vo v).pan
  rw [hfp, voicePan_exact, Fp.addQ_exact, Fp.divQ_exact] at hpan
  refine ⟨hpos, hphase, htimer, hwidth, hlfsr, ?_, startVoice_retuned pf rate r c note vel ref order x vo v hfp href.ne',
    ?_, ?_⟩
  · rw [hlevel, noiseLevel_toInt]
  · rw [Slot.panL, hpan]
  · rw [Slot.panR, hpan]

end Sys2Proof.Machine
end

section
/-! PROOFS. Silence (rules R176, R187, R188): RENDER without an active voice, and a voice at velocity 0. -/

namespace Sys2Proof.Machine

/-- No slot is active. -/
def State.silent (s : State) : Prop := ∀ i : Fin 24, (s.v[i.val]).active = false

/-- The sample tick moves no slot of a silent pool, whether or not a frame tick is due (rules R184, R185). -/
theorem sampleTick_v_silent (rate : Rat) {s : State} (h : s.silent) : (sampleTick rate s).v = s.v := by
  unfold sampleTick
  dsimp only
  split
  · exact vec_ext fun i => (frameTick_v _ _ i).trans (tickSlot_inactive (h i))
  · rfl

theorem soundingSlots_silent {s : State} (h : s.silent) : soundingSlots s = [] := by
  simp [soundingSlots, h _]

/-- One output frame of a silent pool: no slot moves, no contribution (rule R187). -/
theorem renderFrame_silent (rate : Rat) {s : State} (hfp : s.platform.params.fp = .exact) (h : s.silent) :
    (renderFrame rate s).1.v = s.v ∧ (renderFrame rate s).2 = ⟨.clip [], .clip []⟩ := by
  have hv := sampleTick_v_silent rate h
  have hsilent : (sampleTick rate s).silent := fun i => by rw [hv, h i]
  refine ⟨vec_ext fun i => ?_, ?_⟩
  · rw [renderFrame, mixFrame_v, mixVoice_inactive (hsilent i), hv]
  · rw [renderFrame, mixFrame_exact (by rw [sampleTick_platform, hfp]), soundingSlots_silent hsilent]
    rfl

theorem renderFrames_silent (rate : Rat) (n : Nat) {s : State} (hfp : s.platform.params.fp = .exact) (h : s.silent) :
    (renderFrames rate n s).1.v = s.v ∧ (renderFrames rate n s).2 = List.replicate n ⟨.clip [], .clip []⟩ := by
  induction n generalizing s with
  | zero => exact ⟨rfl, rfl⟩
  | succ n ih =>
    obtain ⟨hv, hframe⟩ := renderFrame_silent rate hfp h
    obtain ⟨hrest, hframes⟩ := ih (s := (renderFrame rate s).1) (by rw [renderFrame_platform, hfp])
      (fun i => by rw [hv, h i])
    exact ⟨hrest.trans hv, congrArg₂ List.cons hframe hframes⟩

/-- A voice at velocity 0 has gain 0 (rule R188). -/
theorem voiceGain_velocity_zero {v : Slot} (h : v.velocity = 0) (x : Channel) (out : Pow2Sum) :
    voiceGain .exact x v out = .zero := by
  simp [voiceGain_exact, h]

/-- Settles O55: frame by frame over a silent pool, and the gain formula at velocity 0. -/
theorem silenceWithoutVoices : Obligations.SilenceWithoutVoices := by
  refine ⟨fun s t n hfp hsilent h => ?_, fun pf chs v hfp hvelocity k hk => ?_⟩
  · obtain ⟨rate, -, rfl⟩ := execRender_next h
    obtain ⟨hv, hframes⟩ := renderFrames_silent rate n.toNat hfp hsilent
    exact ⟨hv, by rw [renderState_audio, hframes]⟩
  · cases hactive : v.active with
    | false =>
      rw [mixVoice_inactive hactive] at hk
      cases hk
    | true =>
      rw [mixVoice, if_pos hactive, hfp] at hk
      rw [List.mem_singleton.1 hk]
      exact voiceGain_velocity_zero hvelocity _ _

end Sys2Proof.Machine
end

section
/-! PROOFS. RENDER as a loop over output frames (rules R180 to R184): it completes, it may be cut, its accumulator counts the
ticks; and what NOTE_ON, PBEND and RENDER answer while there is no rate (rule R195). -/

namespace Sys2Proof.Machine

/-! ## Without a rate -/

theorem exec_noteOn_noRate {s : State} (hrate : s.sampleRate = none) (r : Bool) (ch : Byte) (note vel : BitVec 7)
    (ref : Word32) : exec (.noteOn r ch note vel ref) s = .refused .rateNotSet := by
  simp only [exec, execNoteOn, hrate]

theorem exec_pbend_noRate {s : State} (hrate : s.sampleRate = none) (ch : Byte) (b : BitVec 16) :
    exec (.pbend ch b) s = .refused .rateNotSet := by
  simp only [exec, execPbend, hrate]

theorem exec_render_noRate {s : State} (hrate : s.sampleRate = none) (n : Word32) :
    exec (.render n) s = .refused .rateNotSet := by
  simp only [exec, execRender, hrate]

/-- Settles O22: each of the three tests the rate before anything else. -/
theorem noRateNoSound : Obligations.NoRateNoSound := fun _ hrate =>
  ⟨exec_noteOn_noRate hrate, exec_pbend_noRate hrate, exec_render_noRate hrate⟩

/-! ## The frames of a RENDER -/

theorem exec_render {s : State} {rate : Rat} (hrate : s.sampleRate = some rate) (n : Word32) :
    exec (.render n) s = .next (renderState rate n.toNat s) := by
  simp only [exec, execRender, hrate]

theorem length_renderFrames (rate : Rat) (n : Nat) (s : State) : (renderFrames rate n s).2.length = n := by
  induction n generalizing s with
  | zero => rfl
  | succ n ih => exact congrArg (· + 1) (ih (renderFrame rate s).1)

theorem renderFrames_succ (rate : Rat) (n : Nat) (s : State) :
    renderFrames rate (n + 1) s =
      ((renderFrames rate n (renderFrame rate s).1).1,
        (renderFrame rate s).2 :: (renderFrames rate n (renderFrame rate s).1).2) := rfl

/-- The frames of `m + n` are those of `m` and then those of `n` (rule R180). -/
theorem renderFrames_add (rate : Rat) (m n : Nat) (s : State) :
    renderFrames rate (m + n) s =
      ((renderFrames rate n (renderFrames rate m s).1).1,
        (renderFrames rate m s).2 ++ (renderFrames rate n (renderFrames rate m s).1).2) := by
  induction m generalizing s with
  | zero => rw [Nat.zero_add]; rfl
  | succ m ih => rw [Nat.succ_add, renderFrames_succ, renderFrames_succ, ih]; rfl

/-! ## The audio port is written only -/

@[simp] theorem State.emit_nil (s : State) : s.emit [] = s := by simp [State.emit]

@[simp] theorem State.emit_emit (s : State) (fs gs : List Frame) : (s.emit fs).emit gs = s.emit (fs ++ gs) := by
  simp [State.emit]

theorem sampleTick_emit (rate : Rat) (s : State) (fs : List Frame) :
    sampleTick rate (s.emit fs) = (sampleTick rate s).emit fs := by
  obtain hdue | hbetween := le_or_gt (samplesPerGbaFrame s.platform.params.fp rate)
    (s.platform.params.fp.addQ s.frameAcc 1)
  · rw [sampleTick_due hdue, sampleTick_due (s := s.emit fs) hdue]
    rfl
  · rw [sampleTick_between hbetween, sampleTick_between (s := s.emit fs) hbetween]
    rfl

/-- What stands at the audio port does not bear on a frame (rules R182, R186). -/
theorem renderFrame_emit (rate : Rat) (s : State) (fs : List Frame) :
    renderFrame rate (s.emit fs) = ((renderFrame rate s).1.emit fs, (renderFrame rate s).2) := by
  rw [renderFrame, sampleTick_emit]
  rfl

theorem renderFrames_emit (rate : Rat) (n : Nat) (s : State) (fs : List Frame) :
    renderFrames rate n (s.emit fs) = ((renderFrames rate n s).1.emit fs, (renderFrames rate n s).2) := by
  induction n generalizing s with
  | zero => rfl
  | succ n ih => rw [renderFrames_succ, renderFrame_emit, ih]; rfl

/-! ## Completion and cuts -/

@[simp] theorem renderState_sampleRate (rate : Rat) (n : Nat) (s : State) :
    (renderState rate n s).sampleRate = s.sampleRate := by
  obtain ⟨acc, cs, vs, frames, h⟩ := renderState_frame rate n s
  rw [h]

@[simp] theorem renderState_zero (rate : Rat) (s : State) : renderState rate 0 s = s := s.emit_nil

/-- Two buffers leave what one of their total length leaves (rules R180, R184). -/
theorem renderState_renderState (rate : Rat) (m n : Nat) (s : State) :
    renderState rate n (renderState rate m s) = renderState rate (m + n) s := by
  simp only [renderState, renderFrames_emit, renderFrames_add, State.emit_emit]

/-- Settles O50: the frames of a RENDER counted, and two buffers joined. -/
theorem renderCompletesAndMayBeCut : Obligations.RenderCompletesAndMayBeCut := by
  intro s rate hrate
  refine ⟨fun n => ?_, ?_, fun m n k t hk h => ?_⟩
  · exact ⟨_, _, exec_render hrate n, length_renderFrames rate n.toNat s, renderState_audio rate n.toNat s⟩
  · exact (exec_render hrate 0).trans (congrArg _ (renderState_zero rate s))
  · rw [exec_render hrate] at h
    cases h
    rw [exec_render (by rw [renderState_sampleRate, hrate]), exec_render hrate, renderState_renderState, hk]

/-! ## The frame accumulator -/

/-- One frame: the accumulator gains 1, and loses `SAMPLES_PER_GBA_FRAME` if that reaches it (rules R183, R184). -/
theorem renderFrame_frameAcc {s : State} (rate : Rat) (hfp : s.platform.params.fp = .exact) :
    (renderFrame rate s).1.frameAcc =
      if rate / (597275 / 10000) ≤ s.frameAcc + 1 then s.frameAcc + 1 - rate / (597275 / 10000) else s.frameAcc + 1 := by
  rw [renderFrame_frame]
  split
  case isTrue hdue => rw [sampleTick_due_exact hfp hdue]; rfl
  case isFalse hdue => rw [sampleTick_between_exact hfp (not_le.1 hdue)]; rfl

theorem renderFrames_frameAcc {s : State} (rate : Rat) (n : Nat) (hfp : s.platform.params.fp = .exact) :
    ∃ ticks ≤ n, (renderFrames rate n s).1.frameAcc = s.frameAcc + n - (ticks : Rat) * (rate / (597275 / 10000)) := by
  induction n generalizing s with
  | zero => exact ⟨0, le_rfl, by simp [renderFrames]⟩
  | succ n ih =>
    obtain ⟨ticks, hle, hacc⟩ := ih (s := (renderFrame rate s).1) (by rw [renderFrame_platform, hfp])
    rw [renderFrame_frameAcc rate hfp] at hacc
    split at hacc
    case isTrue =>
      refine ⟨ticks + 1, Nat.succ_le_succ hle, hacc.trans ?_⟩
      push_cast
      ring
    case isFalse =>
      refine ⟨ticks, Nat.le_succ_of_le hle, hacc.trans ?_⟩
      push_cast
      ring

/-- With at least one sample per GBA frame one tick per frame is enough (rule R184). -/
theorem renderFrame_frameAcc_lt {s : State} {rate : Rat} (hfp : s.platform.params.fp = .exact)
    (hrate : 1 ≤ rate / (597275 / 10000)) (hs : s.frameAcc < rate / (597275 / 10000)) :
    (renderFrame rate s).1.frameAcc < rate / (597275 / 10000) := by
  rw [renderFrame_frameAcc rate hfp]
  split <;> linarith

theorem renderFrames_frameAcc_lt {s : State} {rate : Rat} (n : Nat) (hfp : s.platform.params.fp = .exact)
    (hrate : 1 ≤ rate / (597275 / 10000)) (hs : s.frameAcc < rate / (597275 / 10000)) :
    (renderFrames rate n s).1.frameAcc < rate / (597275 / 10000) := by
  refine (renderFrames_keeps
    (P := fun u => u.platform.params.fp = .exact ∧ u.frameAcc < rate / (597275 / 10000)) ?_ n s ⟨hfp, hs⟩).2
  rintro u ⟨hu, hacc⟩
  exact ⟨by rw [renderFrame_platform, hu], renderFrame_frameAcc_lt hu hrate hacc⟩

/-- Settles O51: frame by frame, each with at most one tick. -/
theorem frameAccumulatorCountsTheTicks : Obligations.FrameAccumulatorCountsTheTicks := by
  intro s t rate n hrate hfp h
  rw [exec_render hrate] at h
  cases h
  exact ⟨renderFrames_frameAcc rate n.toNat hfp, fun hone hpos hlt =>
    ⟨renderState_frameAcc_nonneg rate n.toNat hfp hpos, renderFrames_frameAcc_lt n.toNat hfp hone hlt⟩⟩

end Sys2Proof.Machine
end

section
/-! PROOFS. A frame with a tick due (rules R184, R185, R240 to R249): the tick on a slot, seen through the generator's step of
the same frame. -/

namespace Sys2Proof.Machine

/-! ## What the tick and the generator leave -/

/-- An envelope step keeps the voice record and the steps (rule R210). -/
theorem EnvelopeMove.sameRecord {v w : Slot} (h : EnvelopeMove v w) : w.voiceRef = v.voiceRef ∧ SameSteps v w := by
  cases h with
  | hold | stop | off => exact ⟨rfl, {}⟩

theorem OscillatorsMove.sameSteps {pf : Platform} {v w : Slot} (h : OscillatorsMove pf v w) : SameSteps v w where
  sampleStep := by rw [h.frame]
  squarePhaseInc := by rw [h.frame]
  noiseInterval := by rw [h.frame]

/-- The slot `w` shows the envelope of `v`: its volume, counter and echo length, and its activity and phase unless the end
of a DirectSound voice, of kind `k`, has switched it off (rules R146, R186, R233). -/
structure ShowsEnvelope (k : Kind) (v w : Slot) : Prop where
  volume : w.envelopeVolume = v.envelopeVolume
  counter : w.envelopeCounter = v.envelopeCounter
  echoLen : w.pseudoEchoLen = v.pseudoEchoLen
  off : v.active = false → w.active = false
  activity : (w.active = v.active ∧ w.phase = v.phase) ∨ (k = .directSound ∧ w.active = false ∧ w.phase = .off)
  activity_of_ne : k ≠ .directSound → w.active = v.active ∧ w.phase = v.phase

theorem OscillatorsMove.showsEnvelope {pf : Platform} {v w : Slot} (h : OscillatorsMove pf v w) :
    ShowsEnvelope (readVoice pf v.voiceRef).kind v w where
  volume := by rw [h.frame]
  counter := by rw [h.frame]
  echoLen := by rw [h.frame]
  off := fun hv => by rw [h.inactive hv, hv]
  activity := h.activity
  activity_of_ne := fun hk => h.activity.resolve_right fun hend => hk hend.1

section TickFrame

variable {pf : Platform} {rate : Rat} {chs : Vector Channel 16} {v : Slot}

/-- The tick on an active slot is its envelope step, but for the three step fields (rules R185, R240). -/
theorem tickSlot_frame (hactive : v.active = true) :
    ∃ step inc interval, tickSlot pf rate chs (mapVec lfoChannel chs) v =
      { envelopeStep (readVoice pf v.voiceRef) v with
        sampleStep := step, squarePhaseInc := inc, noiseInterval := interval } := by
  rw [tickSlot_active hactive]
  split
  · exact ⟨_, _, _, pitchUpdate_frame _ _ _ _⟩
  · exact ⟨_, _, _, rfl⟩

theorem tickSlot_showsEnvelope (hactive : v.active = true) {w : Slot}
    (h : OscillatorsMove pf (tickSlot pf rate chs (mapVec lfoChannel chs) v) w) :
    ShowsEnvelope (readVoice pf v.voiceRef).kind (envelopeStep (readVoice pf v.voiceRef) v) w := by
  obtain ⟨step, inc, interval, htick⟩ := tickSlot_frame (pf := pf) (rate := rate) (chs := chs) hactive
  have hrecord : (envelopeStep (readVoice pf v.voiceRef) v).voiceRef = v.voiceRef := (envelopeStep_move _ v).sameRecord.1
  rw [htick] at h
  obtain ⟨hvolume, hcounter, hecho, hoff, hactivity, hother⟩ := h.showsEnvelope
  rw [hrecord] at hactivity hother
  exact ⟨hvolume, hcounter, hecho, hoff, hactivity, hother⟩

/-- Outside a moving vibrato the frame leaves the steps (rules R185, R247). -/
theorem tickSlot_sameSteps (hactive : v.active = true)
    (hstill : (envelopeStep (readVoice pf v.voiceRef) v).active = false ∨ (chs[v.channel.val]).modState.modType ≠ 0 ∨
      (lfoStep (chs[v.channel.val]).modState).modM = (chs[v.channel.val]).modState.modM ∨ v.isRhythm = true) {w : Slot}
    (h : OscillatorsMove pf (tickSlot pf rate chs (mapVec lfoChannel chs) v) w) : SameSteps v w := by
  rw [tickSlot_untuned hactive hstill] at h
  exact (envelopeStep_move _ v).sameRecord.2.trans h.sameSteps

end TickFrame

/-! ## The frame -/

/-- A frame with a tick due: the tick, then only generators (rules R184, R185, R193). -/
structure DueFrame (rate : Rat) (s t : State) : Prop where
  frameAcc : t.frameAcc = s.frameAcc + 1 - rate / (597275 / 10000)
  ch : ∀ c : Fin 16, t.ch[c.val] = lfoChannel s.ch[c.val]
  slot : ∀ i : Fin 24,
    OscillatorsMove s.platform (tickSlot s.platform rate s.ch (mapVec lfoChannel s.ch) s.v[i.val]) t.v[i.val]

theorem exec_render_due {s t : State} {rate : Rat} (hrate : s.sampleRate = some rate)
    (hfp : s.platform.params.fp = .exact) (hdue : rate / (597275 / 10000) ≤ s.frameAcc + 1)
    (h : exec (.render 1) s = .next t) : DueFrame rate s t := by
  rw [exec_render_one hrate] at h
  cases h
  have hslot := fun i : Fin 24 => frameTick_v rate (s.withFrameAcc (s.frameAcc + 1 - rate / (597275 / 10000))) i
  rw [← sampleTick_due_exact hfp hdue] at hslot
  refine ⟨?_, fun c => ?_, fun i => ?_⟩
  · rw [sampleTick_due_exact hfp hdue]
    rfl
  · rw [sampleTick_due_exact hfp hdue]
    exact frameTick_ch rate _ c
  · rw [mixFrame_v, hslot, sampleTick_platform]
    exact mixVoice_oscillatorsMove _ _ _

/-- Settles O53: the tick slot by slot, seen through the generator's step. -/
theorem dueTickStepsLfoAndEnvelope : Obligations.DueTickStepsLfoAndEnvelope := by
  intro s t rate hrate hfp href hdue h
  obtain ⟨hacc, hch, hslot⟩ := exec_render_due hrate hfp hdue h
  refine ⟨hacc, hch, fun i => ⟨fun hactive => ?_, fun hactive => ?_⟩⟩
  · have hmove := hslot i
    rw [tickSlot_inactive hactive] at hmove
    exact hmove.inactive hactive
  · obtain ⟨hvolume, hcounter, hecho, hoff, hactivity, hother⟩ := tickSlot_showsEnvelope hactive (hslot i)
    refine ⟨hvolume, hcounter, hecho, hoff, hactivity, hother, fun hstill => ?_, fun hsounds htype hmoved hmelodic => ?_⟩
    · obtain ⟨hstep, hinc, hinterval⟩ := tickSlot_sameSteps hactive hstill (hslot i)
      exact ⟨hstep, hinc, hinterval⟩
    · obtain ⟨hstep, hinc, hinterval⟩ := (hslot i).sameSteps
      exact ⟨_, tickSlot_retuned hfp href hactive hsounds htype hmoved hmelodic, hstep, hinc, hinterval⟩

end Sys2Proof.Machine
end

section
/-! PROOFS. The per-channel LFO (rules R200 to R208, `46_lfo.md`). -/

namespace Sys2Proof.Machine

/-! ## The arms of the step -/

/-- The condition of the running arm: depth and speed are not 0 and the delay has run down (rules R201 to R203). -/
structure LfoRunning (m : ModState) : Prop where
  depth : m.mod ≠ 0
  speed : m.lfoSpeed ≠ 0
  countdown : m.lfoDelayCountdown = 0

theorem lfoStep_off {m : ModState} (h : m.lfoSpeed = 0 ∨ m.mod = 0) : lfoStep m = { m with modM := 0 } := if_pos h

theorem lfoStep_waiting {m : ModState} (hspeed : m.lfoSpeed ≠ 0) (hdepth : m.mod ≠ 0) (hwait : m.lfoDelayCountdown ≠ 0) :
    lfoStep m = { m with lfoDelayCountdown := m.lfoDelayCountdown - 1 } :=
  (if_neg (not_or_intro hspeed hdepth)).trans (if_pos hwait)

theorem lfoStep_running {m : ModState} (h : LfoRunning m) : lfoStep m = lfoRun m :=
  (if_neg (not_or_intro h.speed h.depth)).trans (if_neg (not_not_intro h.countdown))

/-! ## The phase of a running LFO -/

/-- `k` steps of a running LFO: it keeps running with the same depth and speed, and its phase is `k` speeds further on
(rule R203). -/
structure LfoAdvanced (m : ModState) (k : Nat) (n : ModState) : Prop where
  depth : n.mod = m.mod
  speed : n.lfoSpeed = m.lfoSpeed
  countdown : n.lfoDelayCountdown = m.lfoDelayCountdown
  phase : n.lfoPhaseCounter.toNat = (m.lfoPhaseCounter.toNat + k * m.lfoSpeed.toNat) % 256

theorem LfoAdvanced.running {m n : ModState} {k : Nat} (h : LfoAdvanced m k n) (hm : LfoRunning m) : LfoRunning n :=
  ⟨h.depth ▸ hm.depth, h.speed ▸ hm.speed, h.countdown ▸ hm.countdown⟩

theorem LfoAdvanced.succ {m n : ModState} {k : Nat} (h : LfoAdvanced m k n) : LfoAdvanced m (k + 1) (lfoRun n) where
  depth := h.depth
  speed := h.speed
  countdown := h.countdown
  phase := by
    calc (n.lfoPhaseCounter + n.lfoSpeed).toNat
        = (n.lfoPhaseCounter.toNat + n.lfoSpeed.toNat) % 256 := BitVec.toNat_add _ _
      _ = ((m.lfoPhaseCounter.toNat + k * m.lfoSpeed.toNat) % 256 + m.lfoSpeed.toNat) % 256 := by rw [h.phase, h.speed]
      _ = (m.lfoPhaseCounter.toNat + (k + 1) * m.lfoSpeed.toNat) % 256 := by
        rw [Nat.mod_add_mod, Nat.add_assoc, Nat.succ_mul]

theorem lfoStep_iterate_advanced {m : ModState} (hm : LfoRunning m) (k : Nat) : LfoAdvanced m k (lfoStep^[k] m) := by
  induction k with
  | zero => exact ⟨rfl, rfl, rfl, by simpa using (Nat.mod_eq_of_lt m.lfoPhaseCounter.isLt).symm⟩
  | succ k ih =>
    rw [Function.iterate_succ_apply', lfoStep_running (ih.running hm)]
    exact ih.succ

/-- `k` additions of `s` are 0 modulo `n` exactly when the additive order of `s` divides `k`. -/
theorem dvd_mul_iff_div_gcd_dvd {n : Nat} (hn : n ≠ 0) (k s : Nat) : n ∣ k * s ↔ n / Nat.gcd s n ∣ k := by
  rw [Nat.gcd_comm, ← ZMod.addOrderOf_coe s hn, addOrderOf_dvd_iff_nsmul_eq_zero, nsmul_eq_mul, ← Nat.cast_mul,
    ZMod.natCast_eq_zero_iff]

theorem LfoAdvanced.phase_returns_iff {m n : ModState} {k : Nat} (h : LfoAdvanced m k n) :
    n.lfoPhaseCounter = m.lfoPhaseCounter ↔ 256 / Nat.gcd m.lfoSpeed.toNat 256 ∣ k := by
  have hlt := m.lfoPhaseCounter.isLt
  rw [← dvd_mul_iff_div_gcd_dvd (by decide), ← BitVec.toNat_inj, h.phase]
  omega

/-- Settles O40: `k` steps of a running LFO are `k` additions of the speed modulo 256. -/
theorem lfoPhaseHasItsPeriod : Obligations.LfoPhaseHasItsPeriod := by
  intro m k hdepth hspeed hcountdown
  have h := lfoStep_iterate_advanced ⟨hdepth, hspeed, hcountdown⟩ k
  exact ⟨h.phase, h.depth, h.speed, h.phase_returns_iff⟩

/-! ## The output -/

theorem lfoWave_range {cnt : Nat} (h : cnt < 256) : -127 ≤ lfoWave cnt ∧ lfoWave cnt ≤ 64 := by
  unfold lfoWave
  split <;> omega

/-- The product of depth and wave, shifted right by 6, before the cast to a byte (rule R204). -/
def lfoRaw (depth cnt : Nat) : Int := (depth : Int) * lfoWave cnt / 64

theorem lfoOutput_eq (mod cnt : Byte) : lfoOutput mod cnt = i8 (lfoRaw mod.toNat cnt.toNat) := by
  rw [lfoOutput, sar_eq]
  rfl

/-- The bound of rule R208, at every depth. -/
theorem lfoRaw_range {cnt : Nat} (h : cnt < 256) (depth : Nat) :
    (-127 * (depth : Int)) / 64 ≤ lfoRaw depth cnt ∧ lfoRaw depth cnt ≤ (depth : Int) := by
  obtain ⟨hlo, hhi⟩ := lfoWave_range h
  have hbelow : (depth : Int) * -127 ≤ depth * lfoWave cnt := mul_le_mul_of_nonneg_left hlo (by positivity)
  have habove : (depth : Int) * lfoWave cnt ≤ depth * 64 := mul_le_mul_of_nonneg_left hhi (by positivity)
  unfold lfoRaw
  omega

/-- At a depth of at most 64 the cast to a byte loses nothing (rule R208). -/
theorem i8_lfoRaw_toInt {cnt depth : Nat} (h : cnt < 256) (hdepth : depth ≤ 64) :
    (i8 (lfoRaw depth cnt)).toInt = lfoRaw depth cnt := by
  obtain ⟨hlo, hhi⟩ := lfoRaw_range h depth
  exact i8_toInt (by omega) (by omega)

/-- The running arm over the integers (rules R203, R204). -/
theorem lfoRun_eq {m : ModState} {cnt : Nat} (hcnt : cnt = (m.lfoPhaseCounter.toNat + m.lfoSpeed.toNat) % 256) :
    lfoRun m = { m with lfoPhaseCounter := BitVec.ofNat 8 cnt, modM := i8 (lfoRaw m.mod.toNat cnt) } := by
  have hphase : (m.lfoPhaseCounter + m.lfoSpeed).toNat = cnt := hcnt ▸ BitVec.toNat_add _ _
  rw [lfoRun, lfoOutput_eq, hphase, ← hphase, BitVec.ofNat_toNat, BitVec.setWidth_eq]

/-- Settles O41: one equation per arm of the step, and the range of the wave scaled by the depth. -/
theorem lfoStepByItsArms : Obligations.LfoStepByItsArms := by
  intro m cnt raw
  refine ⟨lfoStep_off, fun hspeed hdepth hwait => ?_, fun hspeed hdepth hcountdown => ?_⟩
  · have hne : m.lfoDelayCountdown ≠ 0 := by bv_omega
    exact ⟨m.lfoDelayCountdown - 1, by bv_omega, lfoStep_waiting hspeed hdepth hne⟩
  · have hstep := (lfoStep_running ⟨hdepth, hspeed, BitVec.eq_of_toNat_eq hcountdown⟩).trans (lfoRun_eq (cnt := cnt) rfl)
    have hcnt : cnt < 256 := Nat.mod_lt _ (by decide)
    refine ⟨hstep, fun hmod => ⟨?_, lfoRaw_range hcnt _⟩⟩
    rw [hstep]
    exact i8_lfoRaw_toInt hcnt hmod

end Sys2Proof.Machine
end

section
/-! PROOFS. The envelope step arm by arm (rules R210 to R219, R225 to R232, `47_envelopes.md`): an equation per case of
each arm, the phases it leads to, and the end of a DirectSound decay. -/

namespace Sys2Proof.Machine

theorem byte_eq_zero_iff (b : Byte) : b = 0 ↔ b.toNat = 0 := BitVec.toNat_inj.symm

theorem byte_ne_zero {b : Byte} (h : b.toNat ≠ 0) : b ≠ 0 := mt (byte_eq_zero_iff b).1 h

theorem sar_eight (x : Int) : sar x 8 = x / 256 := sar_eq x 8

/-! ## The arm of a class and a phase -/

section Arms

variable {v : Slot} (vo : Voice)

theorem envelopeStep_cgbAttack (hc : v.isCgbVoice = true) (hp : v.phase = .attack) :
    envelopeStep vo v = cgbAttack vo v := by simp [envelopeStep, hc, hp]

theorem envelopeStep_cgbDecay (hc : v.isCgbVoice = true) (hp : v.phase = .decay) :
    envelopeStep vo v = cgbDecay vo v := by simp [envelopeStep, hc, hp]

theorem envelopeStep_cgbSustain (hc : v.isCgbVoice = true) (hp : v.phase = .sustain) :
    envelopeStep vo v = cgbSustain v := by simp [envelopeStep, hc, hp]

theorem envelopeStep_cgbRelease (hc : v.isCgbVoice = true) (hp : v.phase = .release) :
    envelopeStep vo v = cgbRelease vo v := by simp [envelopeStep, hc, hp]

theorem envelopeStep_dsAttack (hc : v.isCgbVoice = false) (hp : v.phase = .attack) :
    envelopeStep vo v = dsAttack vo v := by simp [envelopeStep, hc, hp]

theorem envelopeStep_dsDecay (hc : v.isCgbVoice = false) (hp : v.phase = .decay) :
    envelopeStep vo v = dsDecay vo v := by simp [envelopeStep, hc, hp]

theorem envelopeStep_dsSustain (hc : v.isCgbVoice = false) (hp : v.phase = .sustain) :
    envelopeStep vo v = v := by simp [envelopeStep, hc, hp]

theorem envelopeStep_dsRelease (hc : v.isCgbVoice = false) (hp : v.phase = .release) :
    envelopeStep vo v = dsRelease vo v := by simp [envelopeStep, hc, hp]

/-- Echo is one arm for both classes (rules R217, R230). -/
theorem envelopeStep_echo (hp : v.phase = .echo) : envelopeStep vo v = echoStep v := by
  cases hc : v.isCgbVoice with
  | false | true => simp [envelopeStep, hc, hp]

end Arms

/-! ## The CGB arms, case by case -/

section CgbArms

variable {vo : Voice} {v : Slot}

theorem cgbAttack_instant (ha : vo.attack.toNat = 0) : cgbAttack vo v = cgbEnterDecay vo v :=
  if_pos ((byte_eq_zero_iff _).2 ha)

theorem cgbAttack_count (ha : vo.attack.toNat ≠ 0) (hcount : 1 < v.envelopeCounter) :
    cgbAttack vo v = { v with envelopeCounter := v.envelopeCounter - 1 } :=
  (if_neg (byte_ne_zero ha)).trans (if_neg (by omega))

theorem cgbAttack_peak (ha : vo.attack.toNat ≠ 0) (hcount : v.envelopeCounter ≤ 1)
    (hgoal : v.envelopeGoal ≤ v.envelopeVolume + 1) : cgbAttack vo v = cgbEnterDecay vo v :=
  (if_neg (byte_ne_zero ha)).trans ((if_pos (by omega)).trans (if_pos hgoal))

theorem cgbAttack_rise (ha : vo.attack.toNat ≠ 0) (hcount : v.envelopeCounter ≤ 1)
    (hgoal : v.envelopeVolume + 1 < v.envelopeGoal) :
    cgbAttack vo v =
      { v with envelopeVolume := v.envelopeVolume + 1, envelopeCounter := (vo.attack.toNat : Int) } :=
  (if_neg (byte_ne_zero ha)).trans ((if_pos (by omega)).trans (if_neg (by omega)))

theorem cgbLeaveDecay_eq :
    cgbLeaveDecay vo v =
      if vo.sustain.toNat = 0 then { v with active := false, phase := .off }
      else { v with envelopeVolume := v.sustainGoal, phase := .sustain } := by
  simp only [cgbLeaveDecay, byte_eq_zero_iff, goOff]

theorem cgbDecay_instant (hd : vo.decay.toNat = 0) : cgbDecay vo v = cgbLeaveDecay vo v :=
  if_pos ((byte_eq_zero_iff _).2 hd)

theorem cgbDecay_count (hd : vo.decay.toNat ≠ 0) (hcount : 1 < v.envelopeCounter) :
    cgbDecay vo v = { v with envelopeCounter := v.envelopeCounter - 1 } :=
  (if_neg (byte_ne_zero hd)).trans (if_neg (by omega))

theorem cgbDecay_settle (hd : vo.decay.toNat ≠ 0) (hcount : v.envelopeCounter ≤ 1)
    (hgoal : v.envelopeVolume - 1 ≤ v.sustainGoal) :
    cgbDecay vo v =
      cgbLeaveDecay vo
        { v with envelopeCounter := v.envelopeCounter - 1, envelopeVolume := v.envelopeVolume - 1 } :=
  (if_neg (byte_ne_zero hd)).trans ((if_pos (by omega)).trans (if_pos hgoal))

theorem cgbDecay_fall (hd : vo.decay.toNat ≠ 0) (hcount : v.envelopeCounter ≤ 1)
    (hgoal : v.sustainGoal < v.envelopeVolume - 1) :
    cgbDecay vo v =
      { v with envelopeVolume := v.envelopeVolume - 1, envelopeCounter := (vo.decay.toNat : Int) } :=
  (if_neg (byte_ne_zero hd)).trans ((if_pos (by omega)).trans (if_neg (by omega)))

theorem cgbEndRelease_echo (h : 0 < cgbEchoLevel v) :
    cgbEndRelease v = { v with envelopeVolume := cgbEchoLevel v, phase := .echo } := if_pos h

theorem cgbEndRelease_off (h : cgbEchoLevel v ≤ 0) : cgbEndRelease v = goOff { v with envelopeVolume := 0 } :=
  if_neg (not_lt.2 h)

theorem cgbRelease_instant (hr : vo.release.toNat = 0) : cgbRelease vo v = cgbEndRelease v :=
  if_pos ((byte_eq_zero_iff _).2 hr)

theorem cgbRelease_count (hr : vo.release.toNat ≠ 0) (hcount : 1 < v.envelopeCounter) :
    cgbRelease vo v = { v with envelopeCounter := v.envelopeCounter - 1 } :=
  (if_neg (byte_ne_zero hr)).trans (if_neg (by omega))

theorem cgbRelease_end (hr : vo.release.toNat ≠ 0) (hcount : v.envelopeCounter ≤ 1) (hvol : v.envelopeVolume ≤ 1) :
    cgbRelease vo v = cgbEndRelease { v with envelopeCounter := v.envelopeCounter - 1 } :=
  (if_neg (byte_ne_zero hr)).trans ((if_pos (by omega)).trans (if_pos (by omega)))

theorem cgbRelease_fall (hr : vo.release.toNat ≠ 0) (hcount : v.envelopeCounter ≤ 1) (hvol : 1 < v.envelopeVolume) :
    cgbRelease vo v =
      { v with envelopeVolume := v.envelopeVolume - 1, envelopeCounter := (vo.release.toNat : Int) } :=
  (if_neg (byte_ne_zero hr)).trans ((if_pos (by omega)).trans (if_neg (by omega)))

theorem echoStep_count (h : 1 < v.pseudoEchoLen) : echoStep v = { v with pseudoEchoLen := v.pseudoEchoLen - 1 } :=
  if_neg (by omega)

theorem echoStep_stop (h : v.pseudoEchoLen ≤ 1) :
    echoStep v = goOff { v with pseudoEchoLen := v.pseudoEchoLen - 1 } := if_pos (by omega)

end CgbArms

/-! ## The DirectSound arms, case by case -/

section DirectSoundArms

variable {vo : Voice} {v : Slot}

theorem dsAttack_peak (h : 255 ≤ v.envelopeVolume + (vo.attack.toNat : Int)) :
    dsAttack vo v = { v with envelopeVolume := 255, phase := .decay } := if_pos h

theorem dsAttack_rise (h : v.envelopeVolume + (vo.attack.toNat : Int) < 255) :
    dsAttack vo v = { v with envelopeVolume := v.envelopeVolume + (vo.attack.toNat : Int) } := if_neg (not_le.2 h)

theorem dsDecay_eq :
    dsDecay vo v =
      if v.envelopeVolume * (vo.decay.toNat : Int) / 256 ≤ (vo.sustain.toNat : Int) then
        (if vo.sustain.toNat = 0 then goOff { v with envelopeVolume := 0 }
         else { v with envelopeVolume := (vo.sustain.toNat : Int), phase := .sustain })
      else { v with envelopeVolume := v.envelopeVolume * (vo.decay.toNat : Int) / 256 } := by
  simp only [dsDecay, sar_eight, byte_eq_zero_iff]

theorem dsDecay_fall (h : (vo.sustain.toNat : Int) < v.envelopeVolume * (vo.decay.toNat : Int) / 256) :
    dsDecay vo v = { v with envelopeVolume := v.envelopeVolume * (vo.decay.toNat : Int) / 256 } := by
  rw [dsDecay_eq, if_neg (not_le.2 h)]

theorem dsDecay_settle (h : v.envelopeVolume * (vo.decay.toNat : Int) / 256 ≤ (vo.sustain.toNat : Int))
    (hs : vo.sustain.toNat ≠ 0) :
    dsDecay vo v = { v with envelopeVolume := (vo.sustain.toNat : Int), phase := .sustain } := by
  rw [dsDecay_eq, if_pos h, if_neg hs]

theorem dsDecay_stop (h : v.envelopeVolume * (vo.decay.toNat : Int) / 256 ≤ (vo.sustain.toNat : Int))
    (hs : vo.sustain.toNat = 0) : dsDecay vo v = goOff { v with envelopeVolume := 0 } := by
  rw [dsDecay_eq, if_pos h, if_pos hs]

theorem dsRelease_eq :
    dsRelease vo v =
      if v.envelopeVolume * (vo.release.toNat : Int) / 256 ≤ (v.pseudoEchoVol.toNat : Int) then
        (if v.pseudoEchoVol.toNat = 0 then
           goOff { v with envelopeVolume := v.envelopeVolume * (vo.release.toNat : Int) / 256 }
         else { v with envelopeVolume := (v.pseudoEchoVol.toNat : Int), phase := .echo })
      else { v with envelopeVolume := v.envelopeVolume * (vo.release.toNat : Int) / 256 } := by
  simp only [dsRelease, sar_eight, byte_eq_zero_iff]

theorem dsRelease_fade (h : (v.pseudoEchoVol.toNat : Int) < v.envelopeVolume * (vo.release.toNat : Int) / 256) :
    dsRelease vo v = { v with envelopeVolume := v.envelopeVolume * (vo.release.toNat : Int) / 256 } := by
  rw [dsRelease_eq, if_neg (not_le.2 h)]

theorem dsRelease_echo (h : v.envelopeVolume * (vo.release.toNat : Int) / 256 ≤ (v.pseudoEchoVol.toNat : Int))
    (he : v.pseudoEchoVol.toNat ≠ 0) :
    dsRelease vo v = { v with envelopeVolume := (v.pseudoEchoVol.toNat : Int), phase := .echo } := by
  rw [dsRelease_eq, if_pos h, if_neg he]

theorem dsRelease_stop (h : v.envelopeVolume * (vo.release.toNat : Int) / 256 ≤ (v.pseudoEchoVol.toNat : Int))
    (he : v.pseudoEchoVol.toNat = 0) :
    dsRelease vo v = goOff { v with envelopeVolume := v.envelopeVolume * (vo.release.toNat : Int) / 256 } := by
  rw [dsRelease_eq, if_pos h, if_pos he]

end DirectSoundArms

/-! ## The end of a DirectSound decay -/

section DecayEnds

variable {vo : Voice} {v : Slot}

/-- A positive volume falls with every step of the decay, since the record's byte is below 256 (rule R227). -/
theorem decay_fall_lt (b : Byte) {x : Int} (hx : 0 < x) : x * (b.toNat : Int) / 256 < x := by
  have hb : (b.toNat : Int) < 256 := by have := b.isLt; omega
  exact Int.ediv_lt_of_lt_mul (by norm_num) (mul_lt_mul_of_pos_left hb hx)

/-- A step that stays in Decay is a fall that ends above the sustain level (rule R227). -/
theorem dsDecay_of_phase_decay (h : (dsDecay vo v).phase = .decay) :
    (vo.sustain.toNat : Int) < v.envelopeVolume * (vo.decay.toNat : Int) / 256 ∧
      dsDecay vo v = { v with envelopeVolume := v.envelopeVolume * (vo.decay.toNat : Int) / 256 } := by
  by_cases hfall : v.envelopeVolume * (vo.decay.toNat : Int) / 256 ≤ (vo.sustain.toNat : Int)
  · by_cases hs : vo.sustain.toNat = 0
    · rw [dsDecay_stop hfall hs] at h
      cases h
    · rw [dsDecay_settle hfall hs] at h
      cases h
  · exact ⟨not_le.1 hfall, dsDecay_fall (not_le.1 hfall)⟩

/-- Step `n` is the first at which the slot is no longer in Decay. -/
structure LeavesDecayAt (vo : Voice) (v : Slot) (n : Nat) : Prop where
  left : ((envelopeStep vo)^[n] v).phase ≠ .decay
  before : ∀ k, k < n → ((envelopeStep vo)^[k] v).phase = .decay

theorem leavesDecayAt_one (hp : v.phase = .decay) (h : (envelopeStep vo v).phase ≠ .decay) : LeavesDecayAt vo v 1 :=
  ⟨h, fun k hk => by rwa [Nat.lt_one_iff.1 hk]⟩

theorem LeavesDecayAt.succ {n : Nat} (hp : v.phase = .decay) (h : LeavesDecayAt vo (envelopeStep vo v) n) :
    LeavesDecayAt vo v (n + 1) where
  left := h.left
  before
    | 0, _ => hp
    | k + 1, hk => h.before k (Nat.lt_of_succ_lt_succ hk)

/-- A step that stays in Decay lowers a volume that is not negative, and not to 0 (rule R227). -/
theorem dsDecay_lowers (h0 : 0 ≤ v.envelopeVolume) (hstay : (dsDecay vo v).phase = .decay) :
    (dsDecay vo v).isCgbVoice = v.isCgbVoice ∧ 0 < (dsDecay vo v).envelopeVolume ∧
      (dsDecay vo v).envelopeVolume < v.envelopeVolume := by
  obtain ⟨habove, hfall⟩ := dsDecay_of_phase_decay hstay
  have hpos : v.envelopeVolume ≠ 0 := fun hz => by
    rw [hz] at habove
    omega
  rw [hfall]
  exact ⟨rfl, (Int.natCast_nonneg _).trans_lt habove, decay_fall_lt vo.decay (by omega)⟩

/-- A decay from a volume of at most `b + 1` ends within `b + 1` steps (rule R227). -/
theorem dsDecay_ends (vo : Voice) (b : Nat) (v : Slot) (hc : v.isCgbVoice = false) (hp : v.phase = .decay)
    (h0 : 0 ≤ v.envelopeVolume) (hb : v.envelopeVolume ≤ (b : Int) + 1) :
    ∃ n, 1 ≤ n ∧ n ≤ b + 1 ∧ LeavesDecayAt vo v n := by
  have hstep := envelopeStep_dsDecay vo hc hp
  by_cases hstay : (dsDecay vo v).phase = .decay
  case neg => exact ⟨1, le_refl _, Nat.le_add_left 1 b, leavesDecayAt_one hp (hstep ▸ hstay)⟩
  obtain ⟨hclass, hpos, hlt⟩ := dsDecay_lowers h0 hstay
  cases b with
  | zero => omega
  | succ b =>
    obtain ⟨n, hn, hnb, hleaves⟩ := dsDecay_ends vo b (dsDecay vo v) (hclass.trans hc) hstay hpos.le (by omega)
    exact ⟨n + 1, by omega, by omega, .succ hp (hstep ▸ hleaves)⟩

end DecayEnds

/-- Settles O38: the equations of the DirectSound arms, and the bound at the volume 255. -/
theorem directSoundDecayEnds : Obligations.DirectSoundDecayEnds := by
  refine ⟨fun vo v hc => ⟨fun hp => ?_, fun hp => ?_, envelopeStep_dsSustain vo hc, fun hp => ?_, fun hp => ?_⟩,
    fun vo v hc hp h0 h255 => ?_⟩
  · rw [envelopeStep_dsAttack vo hc hp]
    exact ⟨dsAttack_peak, dsAttack_rise⟩
  · rw [envelopeStep_dsDecay vo hc hp]
    exact ⟨dsDecay_fall, fun hle => ⟨dsDecay_settle hle, dsDecay_stop hle⟩⟩
  · rw [envelopeStep_dsRelease vo hc hp]
    exact ⟨dsRelease_fade, fun hle => ⟨dsRelease_echo hle, dsRelease_stop hle⟩⟩
  · rw [envelopeStep_echo vo hp]
    exact ⟨echoStep_count, echoStep_stop⟩
  · obtain ⟨n, hn, hle, hleft, hbefore⟩ := dsDecay_ends vo 254 v hc hp h0 h255
    exact ⟨n, hn, hle, hleft, hbefore⟩

/-! ## The order of the phases -/

/-- The moves between phases that an envelope step makes (rules R210, R225, R232). -/
inductive PhaseMove : Phase → Phase → Prop
  | stay {p : Phase} : PhaseMove p p
  | peak : PhaseMove .attack .decay
  | settle : PhaseMove .decay .sustain
  | fade : PhaseMove .release .echo
  | stop {p : Phase} : PhaseMove p .off

/-- The place of a phase in the order Attack, Decay, Sustain, Release, Echo, Off (rule R232). -/
def phaseRank : Phase → Nat
  | .attack => 0
  | .decay => 1
  | .sustain => 2
  | .release => 3
  | .echo => 4
  | .off => 5

theorem phaseRank_le_off (p : Phase) : phaseRank p ≤ phaseRank .off := by cases p <;> decide

theorem PhaseMove.rank_le {p q : Phase} (h : PhaseMove p q) : phaseRank p ≤ phaseRank q := by
  cases h with
  | stay => exact le_refl _
  | peak | settle | fade => decide
  | stop => exact phaseRank_le_off p

section PhaseMoves

variable {v : Slot} (vo : Voice)

theorem cgbAttack_phase (hp : v.phase = .attack) : PhaseMove v.phase (cgbAttack vo v).phase := by
  unfold cgbAttack
  split
  · exact hp ▸ .peak
  · split
    · split
      · exact hp ▸ .peak
      · exact .stay
    · exact .stay

/-- Leaving Decay, from any slot on the way (rule R213). -/
theorem cgbLeaveDecay_phase (u : Slot) : PhaseMove .decay (cgbLeaveDecay vo u).phase := by
  unfold cgbLeaveDecay
  split
  · exact .stop
  · exact .settle

theorem cgbDecay_phase (hp : v.phase = .decay) : PhaseMove v.phase (cgbDecay vo v).phase := by
  unfold cgbDecay
  split
  · exact hp ▸ cgbLeaveDecay_phase vo v
  · split
    · split
      · exact hp ▸ cgbLeaveDecay_phase vo _
      · exact .stay
    · exact .stay

/-- The end of Release, from any slot on the way (rule R215). -/
theorem cgbEndRelease_phase (u : Slot) : PhaseMove .release (cgbEndRelease u).phase := by
  unfold cgbEndRelease
  split
  · exact .fade
  · exact .stop

theorem cgbRelease_phase (hp : v.phase = .release) : PhaseMove v.phase (cgbRelease vo v).phase := by
  unfold cgbRelease
  split
  · exact hp ▸ cgbEndRelease_phase v
  · split
    · split
      · exact hp ▸ cgbEndRelease_phase _
      · exact .stay
    · exact .stay

theorem echoStep_phase (v : Slot) : PhaseMove v.phase (echoStep v).phase := by
  obtain ⟨-, h⟩ | ⟨-, h⟩ := echoStep_cases v
  · exact h ▸ .stop
  · exact h ▸ .stay

theorem dsAttack_phase (hp : v.phase = .attack) : PhaseMove v.phase (dsAttack vo v).phase := by
  unfold dsAttack
  split
  · exact hp ▸ .peak
  · exact .stay

theorem dsDecay_phase (hp : v.phase = .decay) : PhaseMove v.phase (dsDecay vo v).phase := by
  rw [dsDecay_eq]
  split
  · split
    · exact .stop
    · exact hp ▸ .settle
  · exact .stay

theorem dsRelease_phase (hp : v.phase = .release) : PhaseMove v.phase (dsRelease vo v).phase := by
  rw [dsRelease_eq]
  split
  · split
    · exact .stop
    · exact hp ▸ .fade
  · exact .stay

/-- The phases of every arm (rule R210). -/
theorem envelopeStep_phase (v : Slot) : PhaseMove v.phase (envelopeStep vo v).phase := by
  unfold envelopeStep
  split
  · split
    case h_1 hp => exact cgbAttack_phase vo hp
    case h_2 hp => exact cgbDecay_phase vo hp
    case h_3 => exact .stay
    case h_4 hp => exact cgbRelease_phase vo hp
    case h_5 => exact echoStep_phase v
    case h_6 => exact .stay
  · split
    case h_1 hp => exact dsAttack_phase vo hp
    case h_2 hp => exact dsDecay_phase vo hp
    case h_3 => exact .stay
    case h_4 hp => exact dsRelease_phase vo hp
    case h_5 => exact echoStep_phase v
    case h_6 => exact .stay

end PhaseMoves

theorem EnvelopeMove.activity {v w : Slot} (h : EnvelopeMove v w) :
    w.active = v.active ∨ (w.active = false ∧ w.phase = .off) := by
  cases h with
  | hold | off => exact .inl rfl
  | stop => exact .inr ⟨rfl, rfl⟩

/-- An envelope step writes envelope fields only (rule R210). -/
theorem EnvelopeMove.frame {v w : Slot} (h : EnvelopeMove v w) :
    w = { v with
      active := w.active
      phase := w.phase
      envelopeVolume := w.envelopeVolume
      envelopeCounter := w.envelopeCounter
      pseudoEchoLen := w.pseudoEchoLen } := by
  cases h with
  | hold | stop | off => rfl

/-- Settles O39: the equations of the CGB arms, then the moves between phases and the frame of a step. -/
theorem envelopePhasesMoveForward : Obligations.EnvelopePhasesMoveForward := by
  refine ⟨fun vo v hc => ⟨fun hp => ?_, fun hp => ?_, envelopeStep_cgbSustain vo hc, fun hp => ?_⟩, fun vo v => ?_⟩
  · rw [envelopeStep_cgbAttack vo hc hp]
    exact ⟨cgbAttack_instant, fun ha =>
      ⟨cgbAttack_count ha, fun hcount => ⟨cgbAttack_peak ha hcount, cgbAttack_rise ha hcount⟩⟩⟩
  · rw [envelopeStep_cgbDecay vo hc hp]
    exact ⟨fun hd => (cgbDecay_instant hd).trans cgbLeaveDecay_eq, fun hd =>
      ⟨cgbDecay_count hd, fun hcount =>
        ⟨fun hgoal => (cgbDecay_settle hd hcount hgoal).trans cgbLeaveDecay_eq, cgbDecay_fall hd hcount⟩⟩⟩
  · rw [envelopeStep_echo vo hp]
    exact ⟨echoStep_count, echoStep_stop⟩
  · have hmove := envelopeStep_move vo v
    exact ⟨(envelopeStep_phase vo v).rank_le, hmove.activity, hmove.frame⟩

end Sys2Proof.Machine
end

section
/-! PROOFS. The CGB ramps (rules R212, R215, R216, R219): a volume that moves by 1 each time a counter runs out, over any
number of envelope steps, and where the attack and the release end. -/

namespace Sys2Proof.Machine

/-! ## A volume on a counter -/

/-- The slot with another volume and another counter. -/
def Slot.withVolume (v : Slot) (vol count : Int) : Slot := { v with envelopeVolume := vol, envelopeCounter := count }

theorem Slot.withVolume_self {v : Slot} {vol count : Int} (hvol : v.envelopeVolume = vol)
    (hcount : v.envelopeCounter = count) : v.withVolume vol count = v := by
  subst hvol hcount
  rfl

/-- The echo level is a matter of the goal and the echo volume (rule R216). -/
@[simp] theorem cgbEchoLevel_withVolume (v : Slot) (vol count : Int) :
    cgbEchoLevel (v.withVolume vol count) = cgbEchoLevel v := rfl

/-- A step `f` that runs a ramp of `N` rounds on the slot `v`: the counter counts down from `p`, and where it runs out the
volume moves by `d` and the counter is reloaded, except in the last round. -/
structure Ramps (f : Slot → Slot) (v : Slot) (start d : Int) (p N : Nat) : Prop where
  count : ∀ vol c : Int, 1 < c → f (v.withVolume vol c) = v.withVolume vol (c - 1)
  move : ∀ q : Nat, q + 1 < N →
    f (v.withVolume (start + d * (q : Int)) 1) = v.withVolume (start + d * (q : Int) + d) (p : Int)

/-- The next step is in the same round, or it is the first of the next one. -/
theorem succ_in_round {p : Nat} (hp : 0 < p) (n : Nat) :
    (n % p + 1 < p ∧ (n + 1) / p = n / p ∧ (n + 1) % p = n % p + 1) ∨
      (n % p + 1 = p ∧ (n + 1) / p = n / p + 1 ∧ (n + 1) % p = 0) := by
  have hn := Nat.div_add_mod n p
  have hmod := Nat.mod_lt n hp
  obtain hlt | heq := Nat.lt_or_eq_of_le (Nat.succ_le_of_lt hmod)
  · have hdm := (Nat.div_mod_unique (a := n + 1) (d := n / p) (c := n % p + 1) hp).2 ⟨by omega, hlt⟩
    exact .inl ⟨hlt, hdm⟩
  · have hdm := (Nat.div_mod_unique (a := n + 1) (d := n / p + 1) (c := 0) hp).2 ⟨by rw [Nat.mul_succ]; omega, hp⟩
    exact .inr ⟨heq, hdm⟩

/-- The slot after `n` steps of a ramp, in the middle of its rounds. -/
theorem Ramps.iterate {f : Slot → Slot} {v : Slot} {start d : Int} {p N : Nat} (h : Ramps f v start d p N) (hp : 0 < p)
    (n : Nat) (hn : n < N * p) :
    f^[n] (v.withVolume start p) =
      v.withVolume (start + d * ((n / p : Nat) : Int)) ((p : Int) - ((n % p : Nat) : Int)) := by
  induction n with
  | zero => simp
  | succ n ih =>
    rw [Function.iterate_succ_apply', ih (by omega)]
    obtain ⟨hlt, hdiv, hmod⟩ | ⟨hlast, hdiv, hmod⟩ := succ_in_round hp n
    · rw [h.count _ _ (by omega), hdiv, hmod]
      congr 1
      omega
    · have hround : n / p + 1 < N := hdiv ▸ Nat.div_lt_of_lt_mul (by rwa [Nat.mul_comm])
      rw [show (p : Int) - ((n % p : Nat) : Int) = 1 by omega, h.move _ hround, hdiv, hmod, Nat.cast_succ,
        mul_add_one, ← add_assoc, Nat.cast_zero, sub_zero]

/-- The last step of a ramp is taken one round short of its end, with the counter run down. -/
theorem Ramps.last {f : Slot → Slot} {v : Slot} {start d : Int} {p N : Nat} (h : Ramps f v start d p (N + 1))
    (hp : 0 < p) :
    f^[(N + 1) * p] (v.withVolume start p) = f (v.withVolume (start + d * (N : Int)) 1) := by
  obtain ⟨k, rfl⟩ : ∃ k, p = k + 1 := ⟨p - 1, by omega⟩
  have hn : N * (k + 1) + k < (N + 1) * (k + 1) := by rw [Nat.succ_mul]; omega
  have hdm := (Nat.div_mod_unique (a := N * (k + 1) + k) (d := N) (c := k) hp).2 ⟨by ring, Nat.lt_succ_self k⟩
  rw [show (N + 1) * (k + 1) = N * (k + 1) + k + 1 by ring, Function.iterate_succ_apply', h.iterate hp _ hn, hdm.1, hdm.2]
  congr 2
  push_cast
  ring

/-! ## The attack -/

section Attack

variable {vo : Voice} {v : Slot}

theorem cgbAttack_ramps (ha : vo.attack.toNat ≠ 0) (hc : v.isCgbVoice = true) (hp : v.phase = .attack)
    (hgoal : v.envelopeGoal = 15) : Ramps (envelopeStep vo) v 0 1 vo.attack.toNat 15 where
  count vol c hcount := (envelopeStep_cgbAttack (v := v.withVolume vol c) vo hc hp).trans (cgbAttack_count ha hcount)
  move q hq := by
    refine (envelopeStep_cgbAttack (v := v.withVolume (0 + 1 * (q : Int)) 1) vo hc hp).trans
      (cgbAttack_rise ha (le_refl 1) ?_)
    show 0 + 1 * (q : Int) + 1 < v.envelopeGoal
    omega

/-- The last step of the attack: from the volume 14 the counter runs out, and the goal is reached (rule R212). -/
theorem envelopeStep_attack_last (ha : vo.attack.toNat ≠ 0) (hc : v.isCgbVoice = true) (hp : v.phase = .attack)
    (hgoal : v.envelopeGoal = 15) {vol : Int} (hvol : 14 ≤ vol) :
    envelopeStep vo (v.withVolume vol 1) = cgbEnterDecay vo (v.withVolume vol 1) := by
  refine (envelopeStep_cgbAttack (v := v.withVolume vol 1) vo hc hp).trans (cgbAttack_peak ha (le_refl 1) ?_)
  show v.envelopeGoal ≤ vol + 1
  omega

end Attack

/-- Settles O36: the attack is a ramp of 15 rounds from 0, and the step after its last round enters Decay. -/
theorem cgbAttackReachesThePeakOnTime : Obligations.CgbAttackReachesThePeakOnTime := by
  intro vo v n ha hc hp hvol hcount hgoal
  have hramp := cgbAttack_ramps ha hc hp hgoal
  have hpos := Nat.pos_of_ne_zero ha
  rw [← Slot.withVolume_self hvol hcount]
  refine ⟨fun hn => ?_, fun hn => ?_⟩
  · rw [hramp.iterate hpos n hn]
    refine ⟨hp, ?_⟩
    show 0 + 1 * ((n / vo.attack.toNat : Nat) : Int) = _
    ring
  · rw [hn, hramp.last hpos, envelopeStep_attack_last ha hc hp hgoal (by norm_num)]
    exact ⟨rfl, hgoal, rfl⟩

/-! ## The release -/

/-- The echo level is `ceil(15 * vol / 256)` (rule R216). -/
theorem cgbEchoLevel_eq {v : Slot} (hgoal : v.envelopeGoal = 15) :
    cgbEchoLevel v = (15 * (v.pseudoEchoVol.toNat : Int) + 255) / 256 := by
  rw [cgbEchoLevel, hgoal, sar_eight]

section Release

variable {vo : Voice} {v : Slot}

theorem cgbRelease_ramps (hr : vo.release.toNat ≠ 0) (hc : v.isCgbVoice = true) (hp : v.phase = .release) (e : Nat) :
    Ramps (envelopeStep vo) v (e : Int) (-1) vo.release.toNat e where
  count vol c hcount := (envelopeStep_cgbRelease (v := v.withVolume vol c) vo hc hp).trans (cgbRelease_count hr hcount)
  move q hq := by
    refine (envelopeStep_cgbRelease (v := v.withVolume ((e : Int) + -1 * (q : Int)) 1) vo hc hp).trans
      (cgbRelease_fall hr (le_refl 1) ?_)
    show 1 < (e : Int) + -1 * (q : Int)
    omega

/-- The last step of the release: from the volume 1 the counter runs out (rules R215, R219). -/
theorem envelopeStep_release_last (hr : vo.release.toNat ≠ 0) (hc : v.isCgbVoice = true) (hp : v.phase = .release)
    {vol : Int} (hvol : vol ≤ 1) :
    envelopeStep vo (v.withVolume vol 1) = cgbEndRelease (v.withVolume vol 0) :=
  (envelopeStep_cgbRelease (v := v.withVolume vol 1) vo hc hp).trans (cgbRelease_end hr (le_refl 1) hvol)

end Release

/-- Settles O37: the release is a ramp of `e` rounds down from `e`, and the step after its last round ends it. -/
theorem cgbReleaseEndsOnTime : Obligations.CgbReleaseEndsOnTime := by
  refine ⟨fun vo v hr hc hp => ?_, fun v hgoal => ?_, fun vo v e n hr hc hp hactive hvol he hcount => ?_⟩
  · rw [envelopeStep_cgbRelease vo hc hp, cgbRelease_instant hr]
    exact ⟨cgbEndRelease_echo, cgbEndRelease_off⟩
  · have hlevel := cgbEchoLevel_eq hgoal
    obtain ⟨hlo, hhi⟩ := cgbEchoLevel_range hgoal
    refine ⟨?_, ?_, hlo, hhi⟩ <;> omega
  · have hramp := cgbRelease_ramps hr hc hp e
    have hpos := Nat.pos_of_ne_zero hr
    rw [← Slot.withVolume_self hvol hcount]
    refine ⟨fun hn => ?_, fun hn => ?_⟩
    · rw [hramp.iterate hpos n hn]
      refine ⟨hp, hactive, ?_⟩
      show (e : Int) + -1 * ((n / vo.release.toNat : Nat) : Int) = _
      ring
    · obtain ⟨r, rfl⟩ : ∃ r, e = r + 1 := ⟨e - 1, by omega⟩
      rw [hn, hramp.last hpos, envelopeStep_release_last hr hc hp (by push_cast; omega)]
      rw [cgbEchoLevel_withVolume]
      refine ⟨fun hecho => ?_, fun hoff => ?_⟩
      · rw [cgbEndRelease_echo (by rwa [cgbEchoLevel_withVolume])]
        exact ⟨rfl, rfl⟩
      · rw [cgbEndRelease_off (by rwa [cgbEchoLevel_withVolume])]
        exact ⟨rfl, rfl⟩

end Sys2Proof.Machine
end

section
/-! PROOFS. The state after reset (rules R270, R271, R273): its slots are blank, its channels have their reset value, and so
every invariant holds in it. -/

namespace Sys2Proof.Machine

theorem State.reset_ch (c : Fin 16) : State.reset.ch[c.val] = .resetValue .zero := Vector.getElem_replicate _

theorem State.reset_v (i : Fin 24) : State.reset.v[i.val] = .blank := Vector.getElem_replicate _

theorem State.reset_inactive (i : Fin 24) : (State.reset.v[i.val]).active = false := by
  rw [State.reset_v]
  rfl

theorem State.reset_not_active (i : Fin 24) : ¬ (State.reset.v[i.val]).active = true :=
  Bool.not_eq_true _ ▸ State.reset_inactive i

theorem State.reset_poolConsistent : State.reset.poolConsistent := fun i => by
  rw [State.reset_v]
  exact iff_of_true rfl rfl

theorem State.reset_clocksLegal : State.reset.clocksLegal := by
  refine ⟨fun r hr => ?_, le_refl 0⟩
  obtain rfl : 44100 = r := Option.some.inj hr
  norm_num

theorem State.reset_mixLegal : State.reset.mixLegal := by
  refine ⟨fun c => ?_, fun i => ?_⟩
  · rw [State.reset_ch]
    show (0 : Rat) ≤ 1 ∧ (1 : Rat) ≤ 1 ∧ (0 : Rat) ≤ 1 / 2 ∧ (1 / 2 : Rat) ≤ 1
    norm_num
  · rw [State.reset_v]
    exact ⟨le_refl 0, zero_le_one⟩

/-- The default table is `octave * 16 + semitone` (rule R132). -/
theorem defaultScaleTable_base_le {e : Byte} (he : e ∈ defaultScaleTable.toList) : e.toNat % 16 ≤ 11 := by
  obtain ⟨k, -, rfl⟩ := List.mem_map.1 he
  rw [BitVec.toNat_ofNat]
  omega

/-- The default parameters are in their ranges (rules R6, R50, R83). -/
theorem Params.standard_legal : Params.standard.legal := by
  refine ⟨by decide, by decide, ?_, le_refl _, fun e => defaultScaleTable_base_le⟩
  show (0 : Rat) < 440
  norm_num

/-- Settles O14: what an invariant asks of an active slot is empty at reset, and the rest is the values of the reset. -/
theorem powerOnStateIsTheResetState : Obligations.PowerOnStateIsTheResetState := by
  refine ⟨rfl, rfl, rfl, State.reset_ch, fun i => ⟨State.reset_inactive i, ?_⟩, rfl, rfl, Memory.wf_nil, rfl, rfl,
    State.reset_poolConsistent, fun i h => absurd h (State.reset_not_active i),
    fun i h => absurd h (State.reset_not_active i), State.reset_clocksLegal, State.reset_mixLegal,
    fun i h => absurd h (State.reset_not_active i), Params.standard_legal⟩
  rw [State.reset_v]
  rfl

end Sys2Proof.Machine
end
